-- ==== Sys2Proof/Word.lean ====
section
/-! DEFINITION. The machine's word types (R7, R20, R23, R24, R71). -/

namespace Sys2Proof

/-- An 8-bit value: a general register, a timer, a memory byte, the immediate kk (R20, R28, R50, R71). -/
abbrev Byte := BitVec 8

/-- A 16-bit value: I, pc, a stack entry (R23, R24, R26). -/
abbrev Word := BitVec 16

/-- A raw instruction word, bit 15 the most significant (R7, R70). -/
abbrev Opcode := BitVec 16

/-- The 12-bit address field nnn (R71). -/
abbrev Addr := BitVec 12

/-- Four raw bits of an instruction word (R71). -/
abbrev Nibble := BitVec 4

end Sys2Proof
end

