-- ==== Sys2Proof/Syntax.lean ====
section
/-! DEFINITION. The instructions: one constructor per row of spec/opcode_table.json, in the order of R84.

Every operand field has exactly the width the encoding gives it (R71). A field named `u` holds the bits of the word
that the decoder does not examine (R75, R76): they select nothing, but a fault reports the raw word (R240), and with
them each valid word is one instruction (notes/assumptions/7.md). -/

namespace Sys2Proof

/-- A general register's index 0x0 to 0xF (R20). -/
abbrev Reg := Fin 16

/-- Register 15, the flag register (R21). -/
abbrev VF : Reg := 15

/-- An instruction of the core (R84). -/
inductive Instr where
  /-- 00E0 CLS (R180); `u` is w[11:8]. -/
  | cls (u : Nibble)
  /-- 00EE RET (R145); `u` is w[11:8]. -/
  | ret (u : Nibble)
  /-- 1nnn JP addr (R146). -/
  | jp (nnn : Addr)
  /-- 2nnn CALL addr (R144). -/
  | call (nnn : Addr)
  /-- 3xkk SE Vx, byte (R140). -/
  | seByte (x : Reg) (kk : Byte)
  /-- 4xkk SNE Vx, byte (R141). -/
  | sneByte (x : Reg) (kk : Byte)
  /-- 5xyN SE Vx, Vy (R142); `u` is w[3:0]. -/
  | seReg (x y : Reg) (u : Nibble)
  /-- 6xkk LD Vx, byte (R100). -/
  | ldByte (x : Reg) (kk : Byte)
  /-- 7xkk ADD Vx, byte (R101). -/
  | addByte (x : Reg) (kk : Byte)
  /-- 8xy0 LD Vx, Vy (R102). -/
  | ldReg (x y : Reg)
  /-- 8xy1 OR Vx, Vy (R103). -/
  | orReg (x y : Reg)
  /-- 8xy2 AND Vx, Vy (R104). -/
  | andReg (x y : Reg)
  /-- 8xy3 XOR Vx, Vy (R105). -/
  | xorReg (x y : Reg)
  /-- 8xy4 ADD Vx, Vy (R106). -/
  | addReg (x y : Reg)
  /-- 8xy5 SUB Vx, Vy (R107). -/
  | subReg (x y : Reg)
  /-- 8xy6 SHR Vx, Vy (R108). -/
  | shr (x y : Reg)
  /-- 8xy7 SUBN Vx, Vy (R109). -/
  | subnReg (x y : Reg)
  /-- 8xyE SHL Vx, Vy (R110). -/
  | shl (x y : Reg)
  /-- 9xyN SNE Vx, Vy (R143); `u` is w[3:0]. -/
  | sneReg (x y : Reg) (u : Nibble)
  /-- Annn LD I, addr (R170). -/
  | ldI (nnn : Addr)
  /-- Bnnn JP V0, addr (R147). -/
  | jpV0 (nnn : Addr)
  /-- Cxkk RND Vx, byte (R172). -/
  | rnd (x : Reg) (kk : Byte)
  /-- Dxyn DRW Vx, Vy, nibble (R181); `n` is the row count 0 to 15. -/
  | drw (x y : Reg) (n : Fin 16)
  /-- Ex9E SKP Vx (R200). -/
  | skp (x : Reg)
  /-- ExA1 SKNP Vx (R201). -/
  | sknp (x : Reg)
  /-- Fx07 LD Vx, DT (R203). -/
  | ldVxDt (x : Reg)
  /-- Fx0A LD Vx, K (R202). -/
  | ldVxK (x : Reg)
  /-- Fx15 LD DT, Vx (R204). -/
  | ldDtVx (x : Reg)
  /-- Fx18 LD ST, Vx (R205). -/
  | ldStVx (x : Reg)
  /-- Fx1E ADD I, Vx (R171). -/
  | addI (x : Reg)
  /-- Fx29 LD F, Vx (R220). -/
  | ldF (x : Reg)
  /-- Fx33 LD B, Vx (R221). -/
  | ldB (x : Reg)
  /-- Fx55 LD [I], Vx (R222). -/
  | storeRegs (x : Reg)
  /-- Fx65 LD Vx, [I] (R223). -/
  | loadRegs (x : Reg)
deriving DecidableEq, Repr

end Sys2Proof
end

