-- ==== Sys2Proof/Decode.lean ====
section
/-! DEFINITION. The decoder (R70 to R77), its inverse the encoder, and the opcode map of R84. -/

namespace Sys2Proof

/-! ## Fields of an instruction word (R71) -/

/-- category = w[15:12]. -/
def category (w : Opcode) : Nibble := w.extractLsb' 12 4

/-- x = w[11:8], a register index. -/
def fieldX (w : Opcode) : Reg := (w.extractLsb' 8 4).toFin

/-- y = w[7:4], a register index. -/
def fieldY (w : Opcode) : Reg := (w.extractLsb' 4 4).toFin

/-- kk = w[7:0]. -/
def fieldKk (w : Opcode) : Byte := w.extractLsb' 0 8

/-- nnn = w[11:0]. -/
def fieldNnn (w : Opcode) : Addr := w.extractLsb' 0 12

/-- n = w[3:0], a count. -/
def fieldN (w : Opcode) : Fin 16 := (w.extractLsb' 0 4).toFin

/-- The raw bits w[11:8], which category 0 does not examine (R76). -/
def bits11to8 (w : Opcode) : Nibble := w.extractLsb' 8 4

/-- The raw bits w[3:0], which categories 5 and 9 do not examine (R75). -/
def bits3to0 (w : Opcode) : Nibble := w.extractLsb' 0 4

/-! ## Decode -/

/-- Category 0 dispatches on the low byte (R74, R76). -/
def decodeCat0 (w : Opcode) : Option Instr :=
  match (fieldKk w).toNat with
  | 0xE0 => some (.cls (bits11to8 w))
  | 0xEE => some (.ret (bits11to8 w))
  | _ => none

/-- Category 8 dispatches on the low nibble (R74). -/
def decodeCat8 (w : Opcode) : Option Instr :=
  match (bits3to0 w).toNat with
  | 0x0 => some (.ldReg (fieldX w) (fieldY w))
  | 0x1 => some (.orReg (fieldX w) (fieldY w))
  | 0x2 => some (.andReg (fieldX w) (fieldY w))
  | 0x3 => some (.xorReg (fieldX w) (fieldY w))
  | 0x4 => some (.addReg (fieldX w) (fieldY w))
  | 0x5 => some (.subReg (fieldX w) (fieldY w))
  | 0x6 => some (.shr (fieldX w) (fieldY w))
  | 0x7 => some (.subnReg (fieldX w) (fieldY w))
  | 0xE => some (.shl (fieldX w) (fieldY w))
  | _ => none

/-- Category 0xE dispatches on the low byte (R74). -/
def decodeCatE (w : Opcode) : Option Instr :=
  match (fieldKk w).toNat with
  | 0x9E => some (.skp (fieldX w))
  | 0xA1 => some (.sknp (fieldX w))
  | _ => none

/-- Category 0xF dispatches on the low byte (R74). -/
def decodeCatF (w : Opcode) : Option Instr :=
  match (fieldKk w).toNat with
  | 0x07 => some (.ldVxDt (fieldX w))
  | 0x0A => some (.ldVxK (fieldX w))
  | 0x15 => some (.ldDtVx (fieldX w))
  | 0x18 => some (.ldStVx (fieldX w))
  | 0x1E => some (.addI (fieldX w))
  | 0x29 => some (.ldF (fieldX w))
  | 0x33 => some (.ldB (fieldX w))
  | 0x55 => some (.storeRegs (fieldX w))
  | 0x65 => some (.loadRegs (fieldX w))
  | _ => none

/-- The decoder, a pure function of the word (R71): the two-level switch of R73 to R76. `none` is a word of the invalid
space (R77), on which `execute` and `step` raise InvalidOpcode. -/
def decode (w : Opcode) : Option Instr :=
  match (category w).toNat with
  | 0x0 => decodeCat0 w
  | 0x1 => some (.jp (fieldNnn w))
  | 0x2 => some (.call (fieldNnn w))
  | 0x3 => some (.seByte (fieldX w) (fieldKk w))
  | 0x4 => some (.sneByte (fieldX w) (fieldKk w))
  | 0x5 => some (.seReg (fieldX w) (fieldY w) (bits3to0 w))
  | 0x6 => some (.ldByte (fieldX w) (fieldKk w))
  | 0x7 => some (.addByte (fieldX w) (fieldKk w))
  | 0x8 => decodeCat8 w
  | 0x9 => some (.sneReg (fieldX w) (fieldY w) (bits3to0 w))
  | 0xA => some (.ldI (fieldNnn w))
  | 0xB => some (.jpV0 (fieldNnn w))
  | 0xC => some (.rnd (fieldX w) (fieldKk w))
  | 0xD => some (.drw (fieldX w) (fieldY w) (fieldN w))
  | 0xE => decodeCatE w
  | 0xF => decodeCatF w
  | _ => none

/-- The 16-bit word of two consecutive bytes, big-endian: the byte at the lower address is bits 15:8 (R58). -/
def wordOf (hi lo : Byte) : Opcode := hi ++ lo

/-- The bytes of a word as memory holds them, the lower address first (R58). -/
def bytesOf (w : Opcode) : List Byte := [w.extractLsb' 8 8, w.extractLsb' 0 8]

/-- What decoding a list of bytes gives. -/
inductive Decoded where
  /-- An instruction, and the bytes after it. -/
  | instr (i : Instr) (rest : List Byte)
  /-- The word matches no row of R84 (R77, R241). -/
  | invalidOpcode (w : Opcode)
  /-- Fewer than the two bytes of a word (R70). -/
  | truncated
deriving DecidableEq, Repr

/-- The decoder on any bytes: one length, two bytes (R70). -/
def decodeBytes : List Byte → Decoded
  | hi :: lo :: rest =>
    match decode (wordOf hi lo) with
    | some i => .instr i rest
    | none => .invalidOpcode (wordOf hi lo)
  | _ => .truncated

/-- The word that the host's numbering gives: an instruction has one word of 16 bits, bit 0 its least significant (R7),
and every bit from `nbits` up is 0. -/
def tableWord (nbits w : Nat) : Opcode := BitVec.ofNat 16 (w % 2 ^ nbits)

/-- The instruction the decoder reads from the word numbered as spec/opcode_table.json numbers it. -/
def decodeTableWord (nbits w : Nat) : Option Instr :=
  match decodeBytes (bytesOf (tableWord nbits w)) with
  | .instr i _ => some i
  | .invalidOpcode _ => none
  | .truncated => none

/-! ## Encode -/

/-- Format N: category, nnn (R72). -/
def formN (c : Nibble) (nnn : Addr) : Opcode := c ++ nnn

/-- Format XKK, and XF with kk its function byte: category, x, low byte (R72). -/
def formXKK (c : Nibble) (x : Reg) (kk : Byte) : Opcode :=
  ((c ++ BitVec.ofFin (w := 4) x : BitVec 8) ++ kk : BitVec 16)

/-- Format XYN: category, x, y, low nibble (R72). -/
def formXYN (c : Nibble) (x y : Reg) (n : Nibble) : Opcode :=
  ((c ++ BitVec.ofFin (w := 4) x : BitVec 8) ++ (BitVec.ofFin (w := 4) y ++ n : BitVec 8) : BitVec 16)

/-- Format Z: 0000, the unexamined nibble, the low byte (R72, R76). -/
def formZ (u : Nibble) (f : Byte) : Opcode := ((0x0#4 ++ u : BitVec 8) ++ f : BitVec 16)

/-- The word of an instruction (R72, R84). -/
def encode : Instr → Opcode
  | .cls u => formZ u 0xE0
  | .ret u => formZ u 0xEE
  | .jp nnn => formN 0x1 nnn
  | .call nnn => formN 0x2 nnn
  | .seByte x kk => formXKK 0x3 x kk
  | .sneByte x kk => formXKK 0x4 x kk
  | .seReg x y u => formXYN 0x5 x y u
  | .ldByte x kk => formXKK 0x6 x kk
  | .addByte x kk => formXKK 0x7 x kk
  | .ldReg x y => formXYN 0x8 x y 0x0
  | .orReg x y => formXYN 0x8 x y 0x1
  | .andReg x y => formXYN 0x8 x y 0x2
  | .xorReg x y => formXYN 0x8 x y 0x3
  | .addReg x y => formXYN 0x8 x y 0x4
  | .subReg x y => formXYN 0x8 x y 0x5
  | .shr x y => formXYN 0x8 x y 0x6
  | .subnReg x y => formXYN 0x8 x y 0x7
  | .shl x y => formXYN 0x8 x y 0xE
  | .sneReg x y u => formXYN 0x9 x y u
  | .ldI nnn => formN 0xA nnn
  | .jpV0 nnn => formN 0xB nnn
  | .rnd x kk => formXKK 0xC x kk
  | .drw x y n => formXYN 0xD x y (BitVec.ofFin (w := 4) n)
  | .skp x => formXKK 0xE x 0x9E
  | .sknp x => formXKK 0xE x 0xA1
  | .ldVxDt x => formXKK 0xF x 0x07
  | .ldVxK x => formXKK 0xF x 0x0A
  | .ldDtVx x => formXKK 0xF x 0x15
  | .ldStVx x => formXKK 0xF x 0x18
  | .addI x => formXKK 0xF x 0x1E
  | .ldF x => formXKK 0xF x 0x29
  | .ldB x => formXKK 0xF x 0x33
  | .storeRegs x => formXKK 0xF x 0x55
  | .loadRegs x => formXKK 0xF x 0x65

/-! ## The opcode map (R84), the decoder's independent description: `(w AND mask) = match` -/

/-- A row of R84. -/
structure OpcodeRow where
  /-- The word's value under the mask. -/
  value : Opcode
  /-- The bits the row fixes. -/
  mask : Opcode
deriving DecidableEq, Repr

/-- The word matches the row. -/
def OpcodeRow.matches (r : OpcodeRow) (w : Opcode) : Bool := w &&& r.mask == r.value

/-- The row of R84 an instruction stands in. -/
def Instr.row : Instr → OpcodeRow
  | .cls _ => ⟨0x00E0, 0xF0FF⟩
  | .ret _ => ⟨0x00EE, 0xF0FF⟩
  | .jp _ => ⟨0x1000, 0xF000⟩
  | .call _ => ⟨0x2000, 0xF000⟩
  | .seByte _ _ => ⟨0x3000, 0xF000⟩
  | .sneByte _ _ => ⟨0x4000, 0xF000⟩
  | .seReg _ _ _ => ⟨0x5000, 0xF000⟩
  | .ldByte _ _ => ⟨0x6000, 0xF000⟩
  | .addByte _ _ => ⟨0x7000, 0xF000⟩
  | .ldReg _ _ => ⟨0x8000, 0xF00F⟩
  | .orReg _ _ => ⟨0x8001, 0xF00F⟩
  | .andReg _ _ => ⟨0x8002, 0xF00F⟩
  | .xorReg _ _ => ⟨0x8003, 0xF00F⟩
  | .addReg _ _ => ⟨0x8004, 0xF00F⟩
  | .subReg _ _ => ⟨0x8005, 0xF00F⟩
  | .shr _ _ => ⟨0x8006, 0xF00F⟩
  | .subnReg _ _ => ⟨0x8007, 0xF00F⟩
  | .shl _ _ => ⟨0x800E, 0xF00F⟩
  | .sneReg _ _ _ => ⟨0x9000, 0xF000⟩
  | .ldI _ => ⟨0xA000, 0xF000⟩
  | .jpV0 _ => ⟨0xB000, 0xF000⟩
  | .rnd _ _ => ⟨0xC000, 0xF000⟩
  | .drw _ _ _ => ⟨0xD000, 0xF000⟩
  | .skp _ => ⟨0xE09E, 0xF0FF⟩
  | .sknp _ => ⟨0xE0A1, 0xF0FF⟩
  | .ldVxDt _ => ⟨0xF007, 0xF0FF⟩
  | .ldVxK _ => ⟨0xF00A, 0xF0FF⟩
  | .ldDtVx _ => ⟨0xF015, 0xF0FF⟩
  | .ldStVx _ => ⟨0xF018, 0xF0FF⟩
  | .addI _ => ⟨0xF01E, 0xF0FF⟩
  | .ldF _ => ⟨0xF029, 0xF0FF⟩
  | .ldB _ => ⟨0xF033, 0xF0FF⟩
  | .storeRegs _ => ⟨0xF055, 0xF0FF⟩
  | .loadRegs _ => ⟨0xF065, 0xF0FF⟩

/-- The 34 rows of R84, in its order. -/
def opcodeMap : List OpcodeRow :=
  [⟨0x00E0, 0xF0FF⟩, ⟨0x00EE, 0xF0FF⟩] ++
  [⟨0x1000, 0xF000⟩, ⟨0x2000, 0xF000⟩, ⟨0x3000, 0xF000⟩, ⟨0x4000, 0xF000⟩,
   ⟨0x5000, 0xF000⟩, ⟨0x6000, 0xF000⟩, ⟨0x7000, 0xF000⟩] ++
  [⟨0x8000, 0xF00F⟩, ⟨0x8001, 0xF00F⟩, ⟨0x8002, 0xF00F⟩, ⟨0x8003, 0xF00F⟩, ⟨0x8004, 0xF00F⟩,
   ⟨0x8005, 0xF00F⟩, ⟨0x8006, 0xF00F⟩, ⟨0x8007, 0xF00F⟩, ⟨0x800E, 0xF00F⟩] ++
  [⟨0x9000, 0xF000⟩, ⟨0xA000, 0xF000⟩, ⟨0xB000, 0xF000⟩, ⟨0xC000, 0xF000⟩, ⟨0xD000, 0xF000⟩] ++
  [⟨0xE09E, 0xF0FF⟩, ⟨0xE0A1, 0xF0FF⟩] ++
  [⟨0xF007, 0xF0FF⟩, ⟨0xF00A, 0xF0FF⟩, ⟨0xF015, 0xF0FF⟩, ⟨0xF018, 0xF0FF⟩, ⟨0xF01E, 0xF0FF⟩,
   ⟨0xF029, 0xF0FF⟩, ⟨0xF033, 0xF0FF⟩, ⟨0xF055, 0xF0FF⟩, ⟨0xF065, 0xF0FF⟩]

end Sys2Proof
end

