-- ==== Sys2Proof/Config.lean ====
section
/-! DEFINITION. The core's fixed parameters (R5) and the values the spec leaves free (R172, R258).

The quirk selections of R5 and R6 are not run-time modes and have one value each on this hardware, so they stand
in the meanings themselves: SHIFT_SOURCE = Vy (execShr, execShl), LOGIC_CLEARS_VF (execOr, execAnd, execXor),
LOADSTORE_ADVANCES_I (execStoreRegs, execLoadRegs), DRW_EDGE = clip (Screen.flip, Screen.lit). -/

namespace Sys2Proof.Config

/-- `MEM_SIZE`: addresses 0x000 to 0xFFF (R5, R50). -/
def memSize : Nat := 4096

/-- `PROGRAM_BASE`, where `load_program` copies to and the first step fetches from (R5, R281, R282). -/
def programBase : Nat := 0x200

/-- The most bytes `load_program` takes: 0x200 + 0xE00 = 0x1000 (R282). -/
def maxImage : Nat := 0xE00

/-- `SCREEN_W` (R5, R32). -/
def screenW : Nat := 64

/-- `SCREEN_H` (R5, R32). -/
def screenH : Nat := 32

/-- `rnd_draw`: the byte source of RND, a free draw per execution (R5, R172, D17). No body: every function from draw
numbers to bytes is admitted, and nothing can be proved of a value. Read at `State.draws`; notes/assumptions/2.md. -/
opaque rndDraw : Nat → Byte

/-- `release_pick`: which of the keys released in one `update_inputs` is latched (R5, R258, D15). No body: the number is
taken modulo how many there are, so every choice is admitted. Read at `State.draws`; notes/assumptions/3.md. -/
opaque releasePick : Nat → Nat

end Sys2Proof.Config
end

