-- ==== Sys2Proof/Machine/State.lean ====
section
/-! DEFINITION. The machine's state (R20 to R35), the faults the core raises (R240) and the state after reset (R280). -/

namespace Sys2Proof.Machine

/-- A typed fault of the core with the information it records (R240). It is raised by an operation, returned to the
caller and kept in the fault mark (R33, R247). -/
inductive CoreFault where
  /-- Code 1: the word matches no row of R84 (R241). -/
  | invalidOpcode (opcode : Opcode) (pc : Word)
  /-- Code 2: CALL with 16 entries in use (R242). -/
  | stackOverflow (opcode : Opcode) (pc : Word)
  /-- Code 3: RET with no entry in use (R243). -/
  | stackUnderflow (opcode : Opcode) (pc : Word)
  /-- Code 4: an effective address I + k above 0xFFF; `addr` is the lowest failing one, an exact sum (R244, R248). -/
  | memoryOutOfRange (opcode : Opcode) (pc : Word) (addr : Nat)
  /-- Code 5: step with pc above 0xFFE (R245). -/
  | fetchOutOfRange (pc : Word)
  /-- Code 6: SKP or SKNP with Vx above 0x0F; `key` is the value of Vx (R246). -/
  | keyOutOfRange (opcode : Opcode) (pc : Word) (key : Byte)
deriving DecidableEq, Repr

/-- Memory as the bytes that differ from the reset contents, addresses strictly rising (R50; notes/assumptions/6.md). -/
abbrev Memory := List Host.Cell

/-- The screen buffer, `screen[y][x]`: 32 rows of 64 pixels (R32). -/
abbrev Screen := Vector (Vector Bool 64) 32

/-- Everything the spec gives the machine (R20 to R33, R50), and the counter of the free values used. -/
structure State where
  /-- V0 to VF (R20). -/
  v : Vector Byte 16
  /-- The index register I (R23). -/
  i : Word
  /-- The program counter (R24, R25). -/
  pc : Word
  /-- The call stack's 16 entries (R26). -/
  stack : Vector Word 16
  /-- The stack pointer, the count of entries in use, 0 to 16 (R27). -/
  sp : Fin 17
  /-- The delay timer (R28). -/
  dt : Byte
  /-- The sound timer (R29). -/
  st : Byte
  /-- The input latch (R30). -/
  keys : Vector Bool 16
  /-- The release latch (R31). -/
  released : Option (Fin 16)
  /-- The screen buffer (R32). -/
  screen : Screen
  /-- Memory (R50). -/
  mem : Memory
  /-- The sticky fault mark (R33). -/
  fault : Option CoreFault
  /-- The model's own: how many free values have been used (notes/assumptions/2.md). -/
  draws : Nat
deriving DecidableEq, Repr

/-- Why a step or an execute has no transition. -/
inductive Fault where
  /-- The fault mark is set (R247: "While the mark is set, `step` and `execute` have no transition"). Raised by `step`,
  `execute` and every meaning on a marked state. Safe: the machine stops where the spec stops it. -/
  | coreFaulted (f : CoreFault)
deriving DecidableEq, Repr

/-- Why the model has no meaning. -/
inductive Refusal where
  /-- The instruction of this mnemonic has no meaning yet. Raised by an arm of `exec` only; no arm does. Safe. -/
  | notModelled (mnemonic : String)
deriving DecidableEq, Repr

/-- The outcome of a step or of an instruction. -/
abbrev Out := Host.Outcome State Fault Refusal

/-- The state after construction (R280): the values R20 to R33 and R280 state, the spec's own choices D1 to D3
(notes/assumptions/4.md). No byte of memory is listed: every one reads as its reset contents (R51 to R55). -/
def State.reset : State where
  v := Vector.replicate 16 0x00
  i := 0x0000
  pc := 0x0200
  stack := Vector.replicate 16 0x0000
  sp := 0
  dt := 0x00
  st := 0x00
  keys := Vector.replicate 16 false
  released := none
  screen := Vector.replicate 32 (Vector.replicate 64 false)
  mem := []
  fault := none
  draws := 0

end Sys2Proof.Machine
end

