-- ==== Sys2Proof/Machine/Font.lean ====
section
/-! DEFINITION. What memory holds at reset: the built-in font and zeros (R51 to R55). -/

namespace Sys2Proof.Machine

/-- `FONT_STRIDE`: bytes per digit slot (R5, R52). -/
def fontStride : Nat := 6

/-- `GLYPH_HEIGHT`: bytes per glyph (R5, R52). -/
def glyphHeight : Nat := 5

/-- `FONT_GLYPHS`: the 80 glyph bytes of R53, five a digit. PRESUMED: R53 takes them from general knowledge (GK1);
notes/assumptions/5.md. -/
def fontGlyphs : List Byte :=
  [0xF0, 0x90, 0x90, 0x90, 0xF0] ++ [0x20, 0x60, 0x20, 0x20, 0x70] ++
  [0xF0, 0x10, 0xF0, 0x80, 0xF0] ++ [0xF0, 0x10, 0xF0, 0x10, 0xF0] ++
  [0x90, 0x90, 0xF0, 0x10, 0x10] ++ [0xF0, 0x80, 0xF0, 0x10, 0xF0] ++
  [0xF0, 0x80, 0xF0, 0x90, 0xF0] ++ [0xF0, 0x10, 0x20, 0x40, 0x40] ++
  [0xF0, 0x90, 0xF0, 0x90, 0xF0] ++ [0xF0, 0x90, 0xF0, 0x10, 0xF0] ++
  [0xF0, 0x90, 0xF0, 0x90, 0x90] ++ [0xE0, 0x90, 0xE0, 0x90, 0xE0] ++
  [0xF0, 0x80, 0x80, 0x80, 0xF0] ++ [0xE0, 0x90, 0x90, 0x90, 0xE0] ++
  [0xF0, 0x80, 0xF0, 0x80, 0xF0] ++ [0xF0, 0x80, 0xF0, 0x80, 0x80]

/-- Row `r` (0 to 4) of the glyph of digit `d` (R52, R53). -/
def glyphRow (d r : Nat) : Byte := fontGlyphs.getD (d * glyphHeight + r) 0x00

/-- The reset contents of the byte at an address: glyph d at 6d to 6d + 4 (R52), the padding byte at 6d + 5 zero (R54),
every byte from 0x060 up zero (R55). -/
def resetByte (a : Nat) : Byte :=
  if a < 16 * fontStride then
    if a % fontStride < glyphHeight then glyphRow (a / fontStride) (a % fontStride) else 0x00
  else 0x00

end Sys2Proof.Machine
end

