-- ==== Sys2Proof/Machine/Ops.lean ====
section
/-! DEFINITION. The named operations over registers, memory, pc, stack and screen, and the one shape every meaning has:
raising a fault and finishing an instruction. -/

namespace Sys2Proof.Machine

/-! ## Memory (R50, R56, R57) -/

/-- `MemRead(addr, 1)`: the last byte written there, or its reset contents. Defined for addresses up to 0xFFF (R56);
every caller has checked that (notes/assumptions/9.md). -/
def Memory.read (m : Memory) (a : Nat) : Byte :=
  match m with
  | [] => resetByte a
  | c :: rest => if a = c.1 then c.2 else Memory.read rest a

/-- The list without an entry for the address: the byte reads as its reset contents. -/
def Memory.erase (m : Memory) (a : Nat) : Memory := m.filter fun c => c.1 != a

/-- An entry put before the first of a higher address. -/
def Memory.insert (m : Memory) (a : Nat) (b : Byte) : Memory :=
  match m with
  | [] => [(a, b)]
  | c :: rest => if a < c.1 then (a, b) :: c :: rest else c :: Memory.insert rest a b

/-- `MemWrite(addr, 1, v)`, which keeps the list rising and without an entry equal to the reset contents. -/
def Memory.write (m : Memory) (a : Nat) (b : Byte) : Memory :=
  if b = resetByte a then Memory.erase m a else Memory.insert (Memory.erase m a) a b

/-- Bytes written at increasing addresses (R57). -/
def Memory.writeBytes (m : Memory) (a : Nat) : List Byte → Memory
  | [] => m
  | b :: bs => Memory.writeBytes (Memory.write m a b) (a + 1) bs

/-- `n` bytes read at increasing addresses (R57). -/
def Memory.readBytes (m : Memory) (a n : Nat) : List Byte :=
  (List.range n).map fun k => Memory.read m (a + k)

/-- The canonical form: addresses strictly rising and in memory, no byte equal to its reset contents. -/
abbrev Memory.wf (m : Memory) : Prop :=
  m.Pairwise (fun c d => c.1 < d.1) ∧ ∀ c ∈ m, c.1 < Config.memSize ∧ c.2 ≠ resetByte c.1

/-- The byte of memory at an address. -/
def State.byte (s : State) (a : Nat) : Byte := Memory.read s.mem a

/-- Bytes stored at increasing addresses. -/
def State.storeBytes (s : State) (a : Nat) (bs : List Byte) : State :=
  { s with mem := Memory.writeBytes s.mem a bs }

/-! ## Registers (R20 to R29) -/

/-- `V[x]` (R9, R20). -/
def State.V (s : State) (x : Reg) : Byte := s.v[x.val]

/-- `V[x] <- b` (R9, R20). -/
def State.setV (s : State) (x : Reg) (b : Byte) : State := { s with v := s.v.set x.val b }

/-- Register 15 written as the flag (R21, R22). -/
def State.setVF (s : State) (b : Byte) : State := s.setV VF b

/-- Registers V0 to Vx taken from a function of the index, the others kept. -/
def State.setVUpTo (s : State) (x : Reg) (f : Nat → Byte) : State :=
  { s with v := Vector.ofFn fun j : Fin 16 => if j ≤ x then f j.val else s.V j }

/-- `I <- w` (R9, R23). -/
def State.setI (s : State) (w : Word) : State := { s with i := w }

/-- `dt <- b` (R28). -/
def State.setDt (s : State) (b : Byte) : State := { s with dt := b }

/-- `st <- b` (R29). -/
def State.setSt (s : State) (b : Byte) : State := { s with st := b }

/-! ## Program counter (R24, R25) -/

/-- `pc <- w`. -/
def State.setPc (s : State) (w : Word) : State := { s with pc := w }

/-- A skip whose condition is `c`: `pc <- trunc_16(pc + 2)` when it holds (R25, R148). -/
def State.skipIf (s : State) (c : Bool) : State := if c then s.setPc (s.pc + 2) else s

/-- A control transfer: `pc <- trunc_16(target - 2)` (R25, R149). -/
def State.transfer (s : State) (target : Nat) : State := s.setPc (BitVec.ofNat 16 target - 2)

/-- The wait-for-key stall: `pc <- trunc_16(pc - 2)` (R25, R207). -/
def State.rewind (s : State) : State := s.setPc (s.pc - 2)

/-! ## Call stack (R26, R27) -/

/-- `stack[sp] <- w; sp <- sp + 1`, for sp < 16; CALL has checked that. -/
def State.push (s : State) (w : Word) : State :=
  if h : s.sp.val < 16 then
    { s with stack := s.stack.set s.sp.val w, sp := ⟨s.sp.val + 1, by omega⟩ }
  else s

/-- `sp <- sp - 1; pc <- stack[sp]`, for sp > 0; RET has checked that. The entry keeps its value (R26). -/
def State.popPc (s : State) : State :=
  if h : 0 < s.sp.val then
    { s with sp := ⟨s.sp.val - 1, by omega⟩, pc := s.stack[s.sp.val - 1]'(by omega) }
  else s

/-! ## Keys (R30, R31) -/

/-- `keys[k]`; no key is numbered above 15, and SKP and SKNP have checked that (R206). -/
def State.keyDown (s : State) (k : Nat) : Bool := if h : k < 16 then s.keys[k] else false

/-- `released <- None` (R81). -/
def State.clearReleased (s : State) : State := { s with released := none }

/-! ## Free values (R172, R258) -/

/-- `draw_byte()`'s value at this point of the run (R9, R172). -/
def State.drawByte (s : State) : Byte := Config.rndDraw s.draws

/-- The free value has been used: the next use reads another. -/
def State.nextDraw (s : State) : State := { s with draws := s.draws + 1 }

/-! ## Screen (R32, R182, R183) -/

/-- Every pixel off (R180). -/
def Screen.blank : Screen := Vector.replicate 32 (Vector.replicate 64 false)

/-- `screen[py][px]`, off the grid false: a clipped bit never collides (R182, R183). -/
def Screen.lit (scr : Screen) (px py : Nat) : Bool :=
  if h : px < 64 ∧ py < 32 then scr[py][px] else false

/-- `screen[py][px] <- not screen[py][px]`, off the grid nothing: the bit is clipped (R182). -/
def Screen.flip (scr : Screen) (px py : Nat) : Screen :=
  if h : px < 64 ∧ py < 32 then scr.set py (scr[py].set px (!scr[py][px])) else scr

/-- The screen so far and whether a collision has happened. -/
abbrev Drawing := Screen × Bool

/-- One sprite bit of 1 at (px, py): a collision if that pixel is lit, and the pixel inverted (R181, R183). -/
def Drawing.xorPixel (d : Drawing) (px py : Nat) : Drawing :=
  (d.1.flip px py, d.2 || d.1.lit px py)

/-- One sprite row: bit 7 - c of the byte is column c (R181, R184). -/
def Drawing.row (d : Drawing) (b : Byte) (cx py : Nat) : Drawing :=
  (List.range 8).foldl (fun d c => if b.getLsbD (7 - c) then d.xorPixel (cx + c) py else d) d

/-- The sprite's rows from the top one down, the first at row py (R181). -/
def Drawing.rows (d : Drawing) (cx py : Nat) : List Byte → Drawing
  | [] => d
  | b :: bs => (d.row b cx py).rows cx (py + 1) bs

/-- The screen replaced. -/
def State.setScreen (s : State) (scr : Screen) : State := { s with screen := scr }

/-! ## Raising a fault, and finishing an instruction (R78, R81, R247, R248) -/

/-- Taking a fault: it is recorded in the fault mark and nothing else changes; no vector, no saved state (R247, R249). -/
def State.raise (s : State) (f : CoreFault) : State := { s with fault := some f }

/-- `execute` from the decoded instruction on (R78): no transition while the mark is set (R247); otherwise the
instruction's one check, which raises its fault with nothing written (R10, R248); otherwise the effect, and then the
release latch cleared (R81). -/
def conclude (s : State) (check : Option CoreFault) (effect : State → State) : Out :=
  match s.fault with
  | some f => .fault (.coreFaulted f)
  | none =>
    match check with
    | some f => .next (s.raise f)
    | none => .next (effect s).clearReleased

end Sys2Proof.Machine
end

