-- ==== Sys2Proof/Machine/Cycle.lean ====
section
/-! DEFINITION. The instruction cycle (R78 to R81), over the meaning of a decoded instruction, which Step.lean supplies;
and placing a word where the next step fetches. -/

namespace Sys2Proof.Machine

/-- `Fetch(pc)`: the big-endian word at pc (R58). -/
def State.fetchWord (s : State) : Opcode := wordOf (s.byte s.pc.toNat) (s.byte (s.pc.toNat + 1))

/-- Both bytes of the word at pc are in memory (R60). -/
def State.fetchInRange (s : State) : Bool := decide (s.pc.toNat ≤ 0xFFE)

/-- `execute(w)` (R78): no transition while the mark is set, then decode, then the instruction. InvalidOpcode carries
the raw word and the pc (R241). -/
def executeWith (run : Instr → State → Out) (w : Opcode) (s : State) : Out :=
  match s.fault with
  | some f => .fault (.coreFaulted f)
  | none =>
    match decode w with
    | some i => run i s
    | none => .next (s.raise (.invalidOpcode w s.pc))

/-- step's +2, which a fault suppresses (R79, R247). -/
def State.advance (s : State) : State := if s.fault.isSome then s else s.setPc (s.pc + 2)

/-- `step()` (R79), the checks in the order of R248. -/
def stepWith (run : Instr → State → Out) (s : State) : Out :=
  match s.fault with
  | some f => .fault (.coreFaulted f)
  | none =>
    if s.fetchInRange then
      match executeWith run s.fetchWord s with
      | .next t => .next t.advance
      | .fault f => .fault f
      | .refused r => .refused r
    else .next (s.raise (.fetchOutOfRange s.pc))

/-- The word placed at pc as memory holds it, where a fetch is in range (notes/assumptions/8.md). -/
def State.placeWord (s : State) (w : Opcode) : State :=
  if s.fetchInRange then s.storeBytes s.pc.toNat (bytesOf w) else s

end Sys2Proof.Machine
end

