-- ==== Sys2Proof/Machine/Flags.lean ====
section
/-! DEFINITION. The values VF takes as a flag (R22, R112). Every one is 0 or 1. -/

namespace Sys2Proof.Machine

/-- A flag as a register value. -/
def flagByte (c : Bool) : Byte := if c then 1 else 0

/-- The carry of a + b: 1 exactly when the exact sum exceeds 0xFF (R106, R112). -/
def carryFlag (a b : Byte) : Byte := flagByte (decide (0xFF < a.toNat + b.toNat))

/-- NOT borrow of a - b: 0 when b > a, else 1 (R107, R109, R112). -/
def notBorrowFlag (a b : Byte) : Byte := flagByte (!decide (a.toNat < b.toNat))

/-- The bit a right shift moves out: bit 0 (R108). -/
def shrFlag (b : Byte) : Byte := b &&& 1

/-- The bit a left shift moves out: bit 7 (R110). -/
def shlFlag (b : Byte) : Byte := b >>> 7

end Sys2Proof.Machine
end

