-- ==== Sys2Proof/Machine/Operands.lean ====
section
/-! DEFINITION. Operands and their checks: effective addresses (R56, R224), stack bounds (R27), key numbers (R206),
the decimal digits (R221) and the sprite (R181). -/

namespace Sys2Proof.Machine

/-- The effective address of byte k: I + k, exact (R56, R224). -/
def State.ea (s : State) (k : Nat) : Nat := s.i.toNat + k

/-- The lowest of the addresses base to base + n - 1 that is above 0xFFF (R56, R248). -/
def firstOutOfRange (base n : Nat) : Option Nat :=
  ((List.range n).map fun k => base + k).find? fun a => decide (0xFFF < a)

/-- The check of an instruction that reads or writes the n bytes at I: MemoryOutOfRange with the first failing address
(R56, R244). -/
def memCheck (w : Opcode) (n : Nat) (s : State) : Option CoreFault :=
  (firstOutOfRange (s.ea 0) n).map fun a => .memoryOutOfRange w s.pc a

/-- CALL's check: sp < 16 (R144, R242). -/
def pushCheck (w : Opcode) (s : State) : Option CoreFault :=
  if s.sp.val < 16 then none else some (.stackOverflow w s.pc)

/-- RET's check: sp > 0 (R145, R243). -/
def popCheck (w : Opcode) (s : State) : Option CoreFault :=
  if 0 < s.sp.val then none else some (.stackUnderflow w s.pc)

/-- SKP's and SKNP's check: the key number is at most 0xF (R200, R201, R246). -/
def keyCheck (w : Opcode) (k : Byte) (s : State) : Option CoreFault :=
  if k.toNat ≤ 0xF then none else some (.keyOutOfRange w s.pc k)

/-- The hundreds, tens and ones digits of a byte (R221). -/
def bcdDigits (b : Byte) : List Byte :=
  [BitVec.ofNat 8 (b.toNat / 100), BitVec.ofNat 8 (b.toNat / 10 % 10), BitVec.ofNat 8 (b.toNat % 10)]

/-- V0 to Vx, in order (R222). -/
def State.regsUpTo (s : State) (x : Reg) : List Byte := s.v.toList.take (x.val + 1)

/-- The font slot of the low hex digit of a byte (R220). -/
def fontAddress (b : Byte) : Nat := b.toNat % 16 * fontStride

/-- The n sprite bytes at I (R181). -/
def State.sprite (s : State) (n : Nat) : List Byte := Memory.readBytes s.mem (s.ea 0) n

end Sys2Proof.Machine
end

