-- ==== Sys2Proof/Machine/ArithLogic.lean ====
section
/-! DEFINITION. Load, arithmetic and logic (spec/40_arith_logic.md). All operands are read from the state before the
instruction, Vx is written next and VF, where it is a flag, last (R111). Byte addition and subtraction are modulo 256,
which is trunc_8 of the exact result (R112). -/

namespace Sys2Proof.Machine

/-- A flagged result: Vx written, then VF (R22, R111). -/
def State.setResult (s : State) (x : Reg) (result flag : Byte) : State := (s.setV x result).setVF flag

/-- 6xkk LD Vx, byte (R100). -/
def execLdByte (x : Reg) (kk : Byte) (s : State) : Out :=
  conclude s none fun s => s.setV x kk

/-- 7xkk ADD Vx, byte: no flag (R101). -/
def execAddByte (x : Reg) (kk : Byte) (s : State) : Out :=
  conclude s none fun s => s.setV x (s.V x + kk)

/-- 8xy0 LD Vx, Vy (R102). -/
def execLdReg (x y : Reg) (s : State) : Out :=
  conclude s none fun s => s.setV x (s.V y)

/-- 8xy1 OR Vx, Vy: VF cleared (R103). -/
def execOr (x y : Reg) (s : State) : Out :=
  conclude s none fun s => s.setResult x (s.V x ||| s.V y) 0

/-- 8xy2 AND Vx, Vy: VF cleared (R104). -/
def execAnd (x y : Reg) (s : State) : Out :=
  conclude s none fun s => s.setResult x (s.V x &&& s.V y) 0

/-- 8xy3 XOR Vx, Vy: VF cleared (R105). -/
def execXor (x y : Reg) (s : State) : Out :=
  conclude s none fun s => s.setResult x (s.V x ^^^ s.V y) 0

/-- 8xy4 ADD Vx, Vy: VF the carry (R106). -/
def execAddReg (x y : Reg) (s : State) : Out :=
  conclude s none fun s => s.setResult x (s.V x + s.V y) (carryFlag (s.V x) (s.V y))

/-- 8xy5 SUB Vx, Vy: Vx - Vy, VF NOT borrow (R107). -/
def execSub (x y : Reg) (s : State) : Out :=
  conclude s none fun s => s.setResult x (s.V x - s.V y) (notBorrowFlag (s.V x) (s.V y))

/-- 8xy6 SHR Vx, Vy: the source is Vy (R108). -/
def execShr (x y : Reg) (s : State) : Out :=
  conclude s none fun s => s.setResult x (s.V y >>> 1) (shrFlag (s.V y))

/-- 8xy7 SUBN Vx, Vy: Vy - Vx, VF NOT borrow (R109). -/
def execSubn (x y : Reg) (s : State) : Out :=
  conclude s none fun s => s.setResult x (s.V y - s.V x) (notBorrowFlag (s.V y) (s.V x))

/-- 8xyE SHL Vx, Vy: the source is Vy (R110). -/
def execShl (x y : Reg) (s : State) : Out :=
  conclude s none fun s => s.setResult x (s.V y <<< 1) (shlFlag (s.V y))

end Sys2Proof.Machine
end

