-- ==== Sys2Proof/Machine/ControlFlow.lean ====
section
/-! DEFINITION. Skips, jumps, calls and returns (spec/41_control_flow.md). pc is the address of the instruction itself;
`step` adds 2 afterwards (R25, R148, R149). -/

namespace Sys2Proof.Machine

/-- 3xkk SE Vx, byte (R140). -/
def execSeByte (x : Reg) (kk : Byte) (s : State) : Out :=
  conclude s none fun s => s.skipIf (s.V x == kk)

/-- 4xkk SNE Vx, byte (R141). -/
def execSneByte (x : Reg) (kk : Byte) (s : State) : Out :=
  conclude s none fun s => s.skipIf (s.V x != kk)

/-- 5xyN SE Vx, Vy (R142); N is not examined (R75). -/
def execSeReg (x y : Reg) (s : State) : Out :=
  conclude s none fun s => s.skipIf (s.V x == s.V y)

/-- 9xyN SNE Vx, Vy (R143); N is not examined (R75). -/
def execSneReg (x y : Reg) (s : State) : Out :=
  conclude s none fun s => s.skipIf (s.V x != s.V y)

/-- 2nnn CALL addr: the pushed value is the address of the CALL itself (R144, D28). -/
def execCall (nnn : Addr) (s : State) : Out :=
  conclude s (pushCheck (encode (.call nnn)) s) fun s => (s.push s.pc).transfer nnn.toNat

/-- 00EE RET (R145); u is w[11:8], which only the raw word of a fault shows (R76, R240). -/
def execRet (u : Nibble) (s : State) : Out :=
  conclude s (popCheck (encode (.ret u)) s) fun s => s.popPc

/-- 1nnn JP addr (R146). -/
def execJp (nnn : Addr) (s : State) : Out :=
  conclude s none fun s => s.transfer nnn.toNat

/-- Bnnn JP V0, addr: the exact sum nnn + V0, not reduced modulo 4096 (R147). -/
def execJpV0 (nnn : Addr) (s : State) : Out :=
  conclude s none fun s => s.transfer (nnn.toNat + (s.V 0).toNat)

end Sys2Proof.Machine
end

