-- ==== Sys2Proof/Machine/Display.lean ====
section
/-! DEFINITION. The display instructions (spec/43_display.md). -/

namespace Sys2Proof.Machine

/-- 00E0 CLS (R180). -/
def execCls (s : State) : Out :=
  conclude s none fun s => s.setScreen Screen.blank

/-- Dxyn DRW Vx, Vy, nibble (R181): every sprite address is checked first; VF is cleared, then Vx and Vy are read
(D13), the rows are XORed onto the screen from (Vx, Vy), exact sums and clipped (R182), and VF is 1 exactly when a
collision happened (R183; for a second identical DRW this is taken over R181's corner case, DEDUCED,
notes/assumptions/14.md). -/
def execDrw (x y : Reg) (n : Fin 16) (s : State) : Out :=
  conclude s (memCheck (encode (.drw x y n)) n.val s) fun s =>
    let s0 := s.setVF 0
    let d := Drawing.rows (s0.screen, false) (s0.V x).toNat (s0.V y).toNat (s0.sprite n.val)
    (s0.setVF (flagByte d.2)).setScreen d.1

end Sys2Proof.Machine
end

