-- ==== Sys2Proof/Machine/IndexRandom.lean ====
section
/-! DEFINITION. The index register and the random byte (spec/42_index_random.md). -/

namespace Sys2Proof.Machine

/-- Annn LD I, addr: nnn zero-extended (R170). -/
def execLdI (nnn : Addr) (s : State) : Out :=
  conclude s none fun s => s.setI (nnn.zeroExtend 16)

/-- Fx1E ADD I, Vx: modulo 2^16, no flag (R171). -/
def execAddI (x : Reg) (s : State) : Out :=
  conclude s none fun s => s.setI (s.i + (s.V x).zeroExtend 16)

/-- Cxkk RND Vx, byte: a free byte AND kk (R172, D17). -/
def execRnd (x : Reg) (kk : Byte) (s : State) : Out :=
  conclude s none fun s => (s.setV x (s.drawByte &&& kk)).nextDraw

end Sys2Proof.Machine
end

