-- ==== Sys2Proof/Machine/KeysTimers.lean ====
section
/-! DEFINITION. Keys and timers (spec/44_keys_timers.md). -/

namespace Sys2Proof.Machine

/-- Ex9E SKP Vx (R200). -/
def execSkp (x : Reg) (s : State) : Out :=
  conclude s (keyCheck (encode (.skp x)) (s.V x) s) fun s => s.skipIf (s.keyDown (s.V x).toNat)

/-- ExA1 SKNP Vx (R201). -/
def execSknp (x : Reg) (s : State) : Out :=
  conclude s (keyCheck (encode (.sknp x)) (s.V x) s) fun s => s.skipIf (!s.keyDown (s.V x).toNat)

/-- Fx0A LD Vx, K: a pending release is taken, otherwise pc is rewound (R202, R207). -/
def execLdVxK (x : Reg) (s : State) : Out :=
  conclude s none fun s =>
    match s.released with
    | some k => s.setV x (BitVec.ofNat 8 k.val)
    | none => s.rewind

/-- Fx07 LD Vx, DT (R203). -/
def execLdVxDt (x : Reg) (s : State) : Out :=
  conclude s none fun s => s.setV x s.dt

/-- Fx15 LD DT, Vx (R204). -/
def execLdDtVx (x : Reg) (s : State) : Out :=
  conclude s none fun s => s.setDt (s.V x)

/-- Fx18 LD ST, Vx (R205). -/
def execLdStVx (x : Reg) (s : State) : Out :=
  conclude s none fun s => s.setSt (s.V x)

end Sys2Proof.Machine
end

