-- ==== Sys2Proof/Machine/MemoryTransfer.lean ====
section
/-! DEFINITION. Font address, decimal digits and block transfer (spec/45_memory_transfer.md). -/

namespace Sys2Proof.Machine

/-- Fx29 LD F, Vx (R220). -/
def execLdF (x : Reg) (s : State) : Out :=
  conclude s none fun s => s.setI (BitVec.ofNat 16 (fontAddress (s.V x)))

/-- Fx33 LD B, Vx (R221). -/
def execLdB (x : Reg) (s : State) : Out :=
  conclude s (memCheck (encode (.ldB x)) 3 s) fun s => s.storeBytes (s.ea 0) (bcdDigits (s.V x))

/-- Fx55 LD [I], Vx: V0 to Vx stored, then I advanced by x + 1 (R222). -/
def execStoreRegs (x : Reg) (s : State) : Out :=
  conclude s (memCheck (encode (.storeRegs x)) (x.val + 1) s) fun s =>
    (s.storeBytes (s.ea 0) (s.regsUpTo x)).setI (BitVec.ofNat 16 (s.ea (x.val + 1)))

/-- Fx65 LD Vx, [I]: V0 to Vx loaded, then I advanced by x + 1 (R223). -/
def execLoadRegs (x : Reg) (s : State) : Out :=
  conclude s (memCheck (encode (.loadRegs x)) (x.val + 1) s) fun s =>
    (s.setVUpTo x fun k => s.byte (s.ea k)).setI (BitVec.ofNat 16 (s.ea (x.val + 1)))

end Sys2Proof.Machine
end

