-- ==== Sys2Proof/Machine/Step.lean ====
section
/-! DEFINITION. One step of the machine (R79) and one execute (R78). -/

namespace Sys2Proof.Machine

/-- `step()`: fetch at pc, execute, advance pc by 2 (R79). -/
def step (s : State) : Host.Outcome State Fault Refusal := stepWith exec s

/-- `execute(w)`: run a caller-supplied word, with no fetch and no advance (R78). -/
def execute (w : Opcode) (s : State) : Host.Outcome State Fault Refusal := executeWith exec w s

/-- The state with the instruction that the host's numbering gives stored where step fetches next. -/
def State.withFetchWord (s : State) (nbits w : Nat) : State := s.placeWord (tableWord nbits w)

end Sys2Proof.Machine
end

