-- ==== Sys2Proof/Machine/Driver.lean ====
section
/-! DEFINITION. The operations the core exposes to its driver (R255 to R262, R282): the timer tick, the input update,
program loading, the accessors, and a driver's run as a list of calls in any order. -/

namespace Sys2Proof.Machine

/-- A timer after one tick: down by 1, saturating at 0 (R256). -/
def tickDown (b : Byte) : Byte := if 0 < b.toNat then b - 1 else b

/-- `on_tick()` (R256): dt and st, and nothing else. -/
def State.onTick (s : State) : State := { s with dt := tickDown s.dt, st := tickDown s.st }

/-- The keys pressed in the old latch and not pressed in the new one, lowest first (R258). -/
def releasedKeys (old new : Vector Bool 16) : List (Fin 16) :=
  (List.finRange 16).filter fun k => old[k.val] && !new[k.val]

/-- `update_inputs(states)` (R258): the latch replaced, and one released key latched, any of them (D15), or None; an
earlier unconsumed release is overwritten. -/
def State.updateInputs (s : State) (states : Vector Bool 16) : State :=
  match releasedKeys s.keys states with
  | [] => { s with keys := states, released := none }
  | k :: ks =>
    { s with keys := states,
             released := (k :: ks)[Config.releasePick s.draws % (k :: ks).length]?,
             draws := s.draws + 1 }

/-- `load_program(bytes)` (R282): at most 3584 bytes copied to 0x200 onward; a longer image is refused (`none`). -/
def State.loadProgram (s : State) (bytes : List Byte) : Option State :=
  if bytes.length ≤ Config.maxImage then some (s.storeBytes Config.programBase bytes) else none

/-- A call the driver makes (R262). Construction is `State.reset` (R280). -/
inductive DriverOp where
  /-- `load_program(bytes)`. -/
  | loadProgram (bytes : List Byte)
  /-- `step()`. -/
  | step
  /-- `execute(w)`. -/
  | execute (w : Opcode)
  /-- `on_tick()`. -/
  | onTick
  /-- `update_inputs(states)`. -/
  | updateInputs (states : Vector Bool 16)
  /-- Accessor register(i). -/
  | register (i : Nat)
  /-- Accessor pc(). -/
  | pc
  /-- Accessor index(). -/
  | index
  /-- Accessor memory(a). -/
  | memory (a : Nat)
  /-- Accessor pixel(x, y). -/
  | pixel (x y : Nat)
  /-- Accessor delay(). -/
  | delay
  /-- Accessor sound(). -/
  | sound
  /-- Accessor key(k). -/
  | key (k : Nat)
deriving DecidableEq, Repr

/-- What the driver gets back (R260, R262). -/
inductive Reply where
  /-- Done. -/
  | ok
  /-- step or execute returned this fault (R240). -/
  | fault (f : CoreFault)
  /-- load_program refused an image above 3584 bytes (R282). -/
  | romTooLarge
  /-- An accessor refused an index out of range (R260, D22). -/
  | outOfRange
  /-- A byte. -/
  | byte (b : Byte)
  /-- A 16-bit value. -/
  | word (w : Word)
  /-- A boolean. -/
  | bool (b : Bool)
deriving DecidableEq, Repr

/-- The result of step or execute as the driver gets it: a fault raised is returned (R240, R249). -/
def replyOf (t : State) : Reply :=
  match t.fault with
  | some f => .fault f
  | none => .ok

/-- A step's or an execute's outcome with its reply. -/
def withReply : Out → Host.Outcome (State × Reply) Fault Refusal
  | .next t => .next (t, replyOf t)
  | .fault f => .fault f
  | .refused r => .refused r

/-- The accessor pixel(x, y), which wraps its coordinates (R260). -/
def State.pixel (s : State) (x y : Nat) : Bool := s.screen.lit (x % Config.screenW) (y % Config.screenH)

/-- One call (R262). Only step and execute have no transition on a marked core; the other operations stay defined and
leave the mark (R247, D29). -/
def call (op : DriverOp) (s : State) : Host.Outcome (State × Reply) Fault Refusal :=
  match op with
  | .loadProgram bytes =>
    match s.loadProgram bytes with
    | some t => .next (t, .ok)
    | none => .next (s, .romTooLarge)
  | .step => withReply (step s)
  | .execute w => withReply (execute w s)
  | .onTick => .next (s.onTick, .ok)
  | .updateInputs states => .next (s.updateInputs states, .ok)
  | .register i => .next (s, if h : i < 16 then .byte (s.V ⟨i, h⟩) else .outOfRange)
  | .pc => .next (s, .word s.pc)
  | .index => .next (s, .word s.i)
  | .memory a => .next (s, if a ≤ 0xFFF then .byte (s.byte a) else .outOfRange)
  | .pixel x y => .next (s, .bool (s.pixel x y))
  | .delay => .next (s, .byte s.dt)
  | .sound => .next (s, .byte s.st)
  | .key k => .next (s, if k ≤ 15 then .bool (s.keyDown k) else .outOfRange)

/-- A driver's run: its calls in order, each one atomic transition (R61, R262). -/
def runCalls : List DriverOp → State → Out
  | [], s => .next s
  | op :: ops, s =>
    match call op s with
    | .next (t, _) => runCalls ops t
    | .fault f => .fault f
    | .refused r => .refused r

/-- `execute` of each word in turn (R78). -/
def executeAll : List Opcode → State → Out
  | [], s => .next s
  | w :: ws, s =>
    match execute w s with
    | .next t => executeAll ws t
    | .fault f => .fault f
    | .refused r => .refused r

end Sys2Proof.Machine
end

