-- ==== Sys2Proof/Safety.lean ====
section
/-! DEFINITION. The words the claims are stated in: a running core, frames, which fault an operation raises, the pc
after a step, the sprite's pixels, and the invariant. Each is written from the rule it cites, not from the meaning. -/

namespace Sys2Proof.Machine

/-- No fault mark: step and execute have a transition (R247). A state that is not running is never a good final one. -/
abbrev State.running (s : State) : Prop := s.fault = none

/-! ## Frames -/

/-- A component of the state other than the general registers. -/
inductive Part where
  | index | pc | stack | sp | dt | st | keys | released | screen | memory | fault | draws
deriving DecidableEq, Repr

/-- The component is the same in both states; memory is, byte by byte. -/
def Part.Same (p : Part) (s t : State) : Prop :=
  match p with
  | .index => t.i = s.i
  | .pc => t.pc = s.pc
  | .stack => t.stack = s.stack
  | .sp => t.sp = s.sp
  | .dt => t.dt = s.dt
  | .st => t.st = s.st
  | .keys => t.keys = s.keys
  | .released => t.released = s.released
  | .screen => t.screen = s.screen
  | .memory => ∀ a, t.byte a = s.byte a
  | .fault => t.fault = s.fault
  | .draws => t.draws = s.draws

/-- From s to t, no register outside `regs` and no component outside `parts` has changed. -/
def Frame (s t : State) (regs : List Reg) (parts : List Part) : Prop :=
  (∀ j, j ∉ regs → t.V j = s.V j) ∧ ∀ p, p ∉ parts → p.Same s t

/-- The instruction completes in s: exec answers a next state t without a fault, the release latch is cleared (R81),
nothing outside `regs`, `parts` and the latch has changed, and `post t` holds. -/
def Completes (i : Instr) (s : State) (regs : List Reg) (parts : List Part) (post : State → Prop) : Prop :=
  ∃ t, exec i s = .next t ∧ t.fault = none ∧ t.released = none ∧ Frame s t regs (.released :: parts) ∧ post t

/-! ## Faults (R240, R248) -/

/-- MemoryOutOfRange where one of the n addresses I to I + n - 1 exceeds 0xFFF; the lowest of those is I itself or
0x1000 (R244, R248). -/
def accessFault (w : Opcode) (s : State) (n : Nat) : Option CoreFault :=
  if n ≠ 0 ∧ 0xFFF < s.i.toNat + (n - 1) then some (.memoryOutOfRange w s.pc (max s.i.toNat 0x1000)) else none

/-- The fault an instruction raises in a state, by the table of R240. -/
def instrFault (i : Instr) (s : State) : Option CoreFault :=
  match i with
  | .call _ => if s.sp.val = 16 then some (.stackOverflow (encode i) s.pc) else none
  | .ret _ => if s.sp.val = 0 then some (.stackUnderflow (encode i) s.pc) else none
  | .drw _ _ n => accessFault (encode i) s n.val
  | .ldB _ => accessFault (encode i) s 3
  | .storeRegs x => accessFault (encode i) s (x.val + 1)
  | .loadRegs x => accessFault (encode i) s (x.val + 1)
  | .skp x => if 0x0F < (s.V x).toNat then some (.keyOutOfRange (encode i) s.pc (s.V x)) else none
  | .sknp x => if 0x0F < (s.V x).toNat then some (.keyOutOfRange (encode i) s.pc (s.V x)) else none
  | _ => none

/-- The fault a step raises in a running state: fetch range, then decode, then the instruction's (R248). -/
def stepFault (s : State) : Option CoreFault :=
  if 0xFFE < s.pc.toNat then some (.fetchOutOfRange s.pc)
  else
    match decode s.fetchWord with
    | none => some (.invalidOpcode s.fetchWord s.pc)
    | some i => instrFault i s

/-! ## The pc after a step (R80) -/

/-- The stack entry RET pops (R27, R145). -/
def State.topEntry (s : State) : Word := s.stack[s.sp.val - 1]'(by omega)

/-- P + 4 where the skip's condition holds, P + 2 where it does not. -/
def afterSkip (s : State) (c : Prop) [Decidable c] : Word := if c then s.pc + 4 else s.pc + 2

/-- The pc after a successful step of the instruction, by the table of R80. -/
def pcAfterStep (i : Instr) (s : State) : Word :=
  match i with
  | .seByte x kk => afterSkip s (s.V x = kk)
  | .sneByte x kk => afterSkip s (s.V x ≠ kk)
  | .seReg x y _ => afterSkip s (s.V x = s.V y)
  | .sneReg x y _ => afterSkip s (s.V x ≠ s.V y)
  | .skp x => afterSkip s (s.keyDown (s.V x).toNat = true)
  | .sknp x => afterSkip s (s.keyDown (s.V x).toNat = false)
  | .jp nnn => BitVec.ofNat 16 nnn.toNat
  | .call nnn => BitVec.ofNat 16 nnn.toNat
  | .ret _ => s.topEntry + 2
  | .jpV0 nnn => BitVec.ofNat 16 (nnn.toNat + (s.V 0).toNat)
  | .ldVxK _ => if s.released = none then s.pc else s.pc + 2
  | _ => s.pc + 2

/-! ## Flag and register writers (R22) -/

/-- The instructions that write VF as a flag (R22). -/
def writesFlag : Instr → Bool
  | .orReg _ _ | .andReg _ _ | .xorReg _ _ | .addReg _ _ | .subReg _ _ | .shr _ _ | .subnReg _ _ | .shl _ _
  | .drw _ _ _ => true
  | _ => false

/-- The instruction names the register as its destination (an x operand that is written; V0 to Vx for Fx65). -/
def writesReg (i : Instr) (j : Reg) : Bool :=
  match i with
  | .ldByte x _ | .addByte x _ | .ldReg x _ | .orReg x _ | .andReg x _ | .xorReg x _ | .addReg x _ | .subReg x _
  | .shr x _ | .subnReg x _ | .shl x _ | .rnd x _ | .ldVxDt x | .ldVxK x => j == x
  | .loadRegs x => decide (j ≤ x)
  | _ => false

/-! ## The sprite (R181 to R184) -/

/-- The column or row register's value as DRW reads it, after VF is cleared (R181, D13). -/
def drawCoord (s : State) (x : Reg) : Nat := if x = VF then 0 else (s.V x).toNat

/-- The sprite of n rows at I, drawn from (cx, cy), has a bit of 1 at pixel (px, py): bit 7 - c of the byte at I + r for
c = px - cx and r = py - cy (R181, R184). -/
def spriteCovers (s : State) (n cx cy px py : Nat) : Bool :=
  decide (cx ≤ px ∧ px < cx + 8 ∧ cy ≤ py ∧ py < cy + n) &&
    (s.byte (s.ea (py - cy))).getLsbD (7 - (px - cx))

/-- A collision: a sprite bit of 1 on a lit pixel of the grid (R183). -/
def Collides (s : State) (n cx cy : Nat) : Prop :=
  ∃ px py, px < 64 ∧ py < 32 ∧ spriteCovers s n cx cy px py = true ∧ s.screen.lit px py = true

/-! ## Words -/

/-- The word of CALL nnn, 2nnn (R144). -/
def callWord (nnn : Addr) : Opcode := BitVec.ofNat 16 (0x2000 + nnn.toNat)

/-- The operands of a decoded instruction are the fields of R71 that its form uses, as numbers of the word. The bits a
form leaves unexamined are no operands; nothing is said of them here. -/
def OperandsAreFields (w : Nat) (i : Instr) : Prop :=
  match i with
  | .cls _ | .ret _ => True
  | .jp nnn | .call nnn | .ldI nnn | .jpV0 nnn => nnn.toNat = w % 4096
  | .seByte x kk | .sneByte x kk | .ldByte x kk | .addByte x kk | .rnd x kk =>
    x.val = w / 256 % 16 ∧ kk.toNat = w % 256
  | .seReg x y _ | .sneReg x y _ => x.val = w / 256 % 16 ∧ y.val = w / 16 % 16
  | .drw x y n => x.val = w / 256 % 16 ∧ y.val = w / 16 % 16 ∧ n.val = w % 16
  | .ldReg x y | .orReg x y | .andReg x y | .xorReg x y | .addReg x y | .subReg x y | .shr x y | .subnReg x y
  | .shl x y => x.val = w / 256 % 16 ∧ y.val = w / 16 % 16
  | .skp x | .sknp x | .ldVxDt x | .ldVxK x | .ldDtVx x | .ldStVx x | .addI x | .ldF x | .ldB x | .storeRegs x
  | .loadRegs x => x.val = w / 256 % 16

/-! ## The invariant every step keeps -/

/-- Memory is in its canonical form; pc is at most 0x10FE (R80, R147); every entry in use is the address of a CALL that
was fetched (R26, R60). -/
structure Inv (s : State) : Prop where
  memWf : Memory.wf s.mem
  pcBound : s.pc.toNat ≤ 0x10FE
  liveEntries : ∀ j : Fin 16, j.val < s.sp.val → s.stack[j.val].toNat ≤ 0xFFE

end Sys2Proof.Machine
end

