-- ==== Sys2Proof/Certificates/Slice0/Obligations.lean ====
section
/-! DEFINITION. The statements for the provers, in the words of Sys2Proof/Safety.lean. "Derived" in a docstring: the
rule carries the spec's own mark of a decision (D<n>), of a derivation or of general knowledge (GK<n>). -/

open Sys2Proof Sys2Proof.Machine

/-! ## Encoding and decode -/

/-- Decoding an instruction's word gives the instruction back, with every operand at every value. Derived: R71, R72 and
R84 give the fields and the patterns; that the encoder inverts the decoder is the model's (log 7). -/
def Obligations.DecodeInvertsEncode : Prop := ∀ i : Instr, decode (encode i) = some i

/-- Each valid word is one instruction: encoding what it decodes to gives the word back, the unexamined bits with it.
Derived as above (log 7). -/
def Obligations.EncodeInvertsDecode : Prop := ∀ (w : Opcode) (i : Instr), decode w = some i → encode i = w

/-- There are 34 rows; a word decodes to an instruction of a row exactly when (w AND mask) = match for that row of the map;
and no word matches two rows (R84). Derived: five of the forms are GK2 and GK3 (log 13). -/
def Obligations.DecodeFollowsTheOpcodeMap : Prop :=
  opcodeMap.length = 34 ∧
  (∀ (w : Opcode) (r : OpcodeRow),
    (∃ i, decode w = some i ∧ i.row = r) ↔ (r ∈ opcodeMap ∧ w &&& r.mask = r.value)) ∧
  ∀ (w : Opcode) (r r' : OpcodeRow), r ∈ opcodeMap → r' ∈ opcodeMap →
    w &&& r.mask = r.value → w &&& r'.mask = r'.value → r = r'

/-- R71: the fields category, x, y, kk, nnn and n are these bits of the word, zero-extended and unscaled, and they are
the operands of what the word decodes to. -/
def Obligations.FieldsAreTheWordsBits : Prop :=
  ∀ w : Opcode,
    (category w).toNat = w.toNat / 4096 ∧ (fieldX w).val = w.toNat / 256 % 16 ∧
    (fieldY w).val = w.toNat / 16 % 16 ∧ (fieldKk w).toNat = w.toNat % 256 ∧
    (fieldNnn w).toNat = w.toNat % 4096 ∧ (fieldN w).val = w.toNat % 16 ∧
    ∀ i, decode w = some i → OperandsAreFields w.toNat i

/-- The invalid space of R77, category by category. Derived: R77 is the spec's derivation from R73 to R76 (D10, D26). -/
def Obligations.InvalidWordsAreThoseListed : Prop :=
  ∀ w : Opcode, decode w = none ↔
    (w.toNat / 4096 = 0x0 ∧ w.toNat % 256 ∉ [0xE0, 0xEE]) ∨
    (w.toNat / 4096 = 0x8 ∧ w.toNat % 16 ∈ [0x8, 0x9, 0xA, 0xB, 0xC, 0xD, 0xF]) ∨
    (w.toNat / 4096 = 0xE ∧ w.toNat % 256 ∉ [0x9E, 0xA1]) ∨
    (w.toNat / 4096 = 0xF ∧
      w.toNat % 256 ∉ [0x07, 0x0A, 0x15, 0x18, 0x1E, 0x29, 0x33, 0x55, 0x65])

/-- The bits a word leaves unexamined change nothing that the instruction does (R75, R76). Derived: D10, D26. For RET
this is said where it completes; where it faults the raw word is reported. -/
def Obligations.UnexaminedBitsChangeNothing : Prop :=
  ∀ (s : State) (x y : Reg) (u : Nibble),
    exec (.seReg x y u) s = exec (.seReg x y 0) s ∧ exec (.sneReg x y u) s = exec (.sneReg x y 0) s ∧
    exec (.cls u) s = exec (.cls 0) s ∧ (0 < s.sp.val → exec (.ret u) s = exec (.ret 0) s)

/-- Words written out from the encodings of R84, one or more a family (95_test_vectors.md section 2.1 among them). -/
def Obligations.SampleWordsDecode : Prop :=
  decode 0x05E0 = some (.cls 5) ∧ decode 0x00EE = some (.ret 0) ∧ decode 0x0123 = none ∧
  decode 0xBA00 = some (.jpV0 0xA00) ∧ decode 0x5121 = some (.seReg 1 2 1) ∧
  decode 0x6042 = some (.ldByte 0 0x42) ∧ decode 0x8ABE = some (.shl 10 11) ∧ decode 0x800D = none ∧
  decode 0xF51E = some (.addI 5) ∧ decode 0xD125 = some (.drw 1 2 5) ∧ decode 0xE4A1 = some (.sknp 4) ∧
  decode 0xE09F = none ∧ decode 0xF165 = some (.loadRegs 1) ∧ decode 0xFFFF = none

/-! ## The cycle and the faults -/

/-- `step` (R79): no transition on a marked core; FetchOutOfRange with pc above 0xFFE; otherwise the big-endian word at
pc (R58) is decoded, InvalidOpcode if it is no instruction; otherwise exec of the instruction in this state, and then
pc + 2 unless it raised a fault. Derived: D4, D9. -/
def Obligations.StepRunsTheDecodedInstruction : Prop :=
  ∀ s : State,
    (∀ f, s.fault = some f → step s = .fault (.coreFaulted f)) ∧
    (s.running → 0xFFE < s.pc.toNat → step s = .next { s with fault := some (.fetchOutOfRange s.pc) }) ∧
    (s.running → s.pc.toNat ≤ 0xFFE → ∀ w : Opcode,
      w.toNat = (s.byte s.pc.toNat).toNat * 256 + (s.byte (s.pc.toNat + 1)).toNat →
      (decode w = none → step s = .next { s with fault := some (.invalidOpcode w s.pc) }) ∧
      ∀ i t, decode w = some i → exec i s = .next t →
        step s = .next (if t.fault = none then { t with pc := t.pc + 2 } else t))

/-- `execute(w)` (R78): the decoded instruction's exec, with no fetch and no advance; InvalidOpcode with the raw word and
the pc if the word is no instruction (R241). Derived: D9. -/
def Obligations.ExecuteRunsTheDecodedInstruction : Prop :=
  ∀ (s : State) (w : Opcode), s.running →
    (∀ i, decode w = some i → execute w s = exec i s) ∧
    (decode w = none → execute w s = .next { s with fault := some (.invalidOpcode w s.pc) })

/-- While the mark is set, step, execute and every instruction have no transition (R247, sticky). Derived: D9. -/
def Obligations.FaultedCoreHasNoTransition : Prop :=
  ∀ (s : State) (f : CoreFault), s.fault = some f →
    step s = .fault (.coreFaulted f) ∧ (∀ w, execute w s = .fault (.coreFaulted f)) ∧
    ∀ i, exec i s = .fault (.coreFaulted f)

/-- An operation that raises a fault changes nothing but the fault mark (R247, precise). Derived: D9. -/
def Obligations.FaultsArePrecise : Prop :=
  ∀ (s t : State) (f : CoreFault), s.running → t.fault = some f →
    ((∃ i, exec i s = .next t) ∨ (∃ w, execute w s = .next t) ∨ step s = .next t) →
    t = { s with fault := some f }

/-- A step of a running core always has a next state, and raises exactly the fault R240 lists, in the order of R248:
fetch range, decode, the instruction's check with the lowest failing address. Derived: D4, D6, D7, D8, D14. -/
def Obligations.StepRaisesTheListedFault : Prop :=
  ∀ s : State, s.running → ∃ t, step s = .next t ∧ t.fault = stepFault s

/-- Every instruction of a running core completes, unless R240 lists a fault for it in that state, which it then takes.
Derived: D6, D7, D14. -/
def Obligations.EveryInstructionCompletesOrFaults : Prop :=
  ∀ (i : Instr) (s : State), s.running →
    (instrFault i s = none → ∃ t, exec i s = .next t ∧ t.fault = none) ∧
    ∀ f, instrFault i s = some f → exec i s = .next { s with fault := some f }

/-- The release latch is cleared by every successful execute and step, and by no faulting one (R81). Derived: D9, D16. -/
def Obligations.SuccessClearsTheReleaseLatch : Prop :=
  ∀ s t : State, s.running →
    ((∃ i, exec i s = .next t) ∨ (∃ w, execute w s = .next t) ∨ step s = .next t) →
    (t.fault = none → t.released = none) ∧ (t.fault ≠ none → t.released = s.released)

/-- The pc after a successful step, by the table of R80. Derived: R80 is the spec's derivation. -/
def Obligations.PcAfterStepIsAsListed : Prop :=
  ∀ (s t : State) (i : Instr), s.running → decode s.fetchWord = some i → step s = .next t → t.fault = none →
    t.pc = pcAfterStep i s

/-! ## Load, arithmetic and logic -/

/-- 6xkk and 8xy0 (R100, R102). -/
def Obligations.LoadsCopyTheirOperand : Prop :=
  ∀ (s : State) (x y : Reg) (kk : Byte), s.running →
    Completes (.ldByte x kk) s [x] [] (fun t => t.V x = kk) ∧
    Completes (.ldReg x y) s [x] [] (fun t => t.V x = s.V y)

/-- 7xkk: modulo 256, and no flag (R101). Derived: D11. -/
def Obligations.AddByteWrapsWithoutFlag : Prop :=
  ∀ (s : State) (x : Reg) (kk : Byte), s.running →
    Completes (.addByte x kk) s [x] [] (fun t => (t.V x).toNat = ((s.V x).toNat + kk.toNat) % 256)

/-- 8xy1, 8xy2, 8xy3: the bitwise result in Vx, then VF 0, also where Vx is VF (R103, R104, R105). -/
def Obligations.LogicClearsVF : Prop :=
  ∀ (s : State) (x y : Reg), s.running →
    Completes (.orReg x y) s [x, VF] [] (fun t => t.V VF = 0 ∧ (x ≠ VF → t.V x = s.V x ||| s.V y)) ∧
    Completes (.andReg x y) s [x, VF] [] (fun t => t.V VF = 0 ∧ (x ≠ VF → t.V x = s.V x &&& s.V y)) ∧
    Completes (.xorReg x y) s [x, VF] [] (fun t => t.V VF = 0 ∧ (x ≠ VF → t.V x = s.V x ^^^ s.V y))

/-- 8xy4: the sum modulo 256 in Vx, then the carry in VF (R106). Derived: that the carry stands where Vx is VF is D12
(log 12). -/
def Obligations.AddRegSetsCarry : Prop :=
  ∀ (s : State) (x y : Reg), s.running →
    Completes (.addReg x y) s [x, VF] [] (fun t =>
      t.V VF = (if (s.V x).toNat + (s.V y).toNat > 0xFF then 1 else 0) ∧
      (x ≠ VF → (t.V x).toNat = ((s.V x).toNat + (s.V y).toNat) % 256))

/-- 8xy5 and 8xy7: the difference modulo 256 in Vx, then NOT borrow in VF (R107, R109). Derived: that the flag stands where
Vx is VF is D12 (log 12). -/
def Obligations.SubtractionsSetNotBorrow : Prop :=
  ∀ (s : State) (x y : Reg), s.running →
    Completes (.subReg x y) s [x, VF] [] (fun t =>
      t.V VF = (if (s.V y).toNat > (s.V x).toNat then 0 else 1) ∧
      (x ≠ VF → ((t.V x).toNat : Int) = ((s.V x).toNat - (s.V y).toNat : Int) % 256)) ∧
    Completes (.subnReg x y) s [x, VF] [] (fun t =>
      t.V VF = (if (s.V x).toNat > (s.V y).toNat then 0 else 1) ∧
      (x ≠ VF → ((t.V x).toNat : Int) = ((s.V y).toNat - (s.V x).toNat : Int) % 256))

/-- 8xy6 and 8xyE: Vy shifted by one into Vx, then the bit shifted out of Vy in VF (R108, R110). Derived: that the flag
stands where Vx is VF is D12 (log 12). -/
def Obligations.ShiftsReadVy : Prop :=
  ∀ (s : State) (x y : Reg), s.running →
    Completes (.shr x y) s [x, VF] [] (fun t =>
      (t.V VF).toNat = (s.V y).toNat % 2 ∧ (x ≠ VF → (t.V x).toNat = (s.V y).toNat / 2)) ∧
    Completes (.shl x y) s [x, VF] [] (fun t =>
      (t.V VF).toNat = (s.V y).toNat / 128 ∧ (x ≠ VF → (t.V x).toNat = (s.V y).toNat * 2 % 256))

/-- R22 over all instructions: those of its table leave VF 0 or 1; any other changes VF only where VF is its destination
register; and no instruction changes a register that is neither its destination nor its flag. Derived: D11, D12. -/
def Obligations.OnlyListedInstructionsWriteVF : Prop :=
  ∀ (i : Instr) (s t : State), s.running → exec i s = .next t → t.fault = none →
    (writesFlag i = true → t.V VF = 0 ∨ t.V VF = 1) ∧
    ∀ j, writesReg i j = false → (j = VF → writesFlag i = false) → t.V j = s.V j

/-! ## Control flow -/

/-- The four skips of this family: pc + 2 when the condition holds, pc unchanged otherwise, and nothing else (R140 to
R143). Derived: the conditions are GK4 (log 13), and that u is not examined is D26 (log 7). -/
def Obligations.SkipsTestTheirCondition : Prop :=
  ∀ (s : State) (x y : Reg) (kk : Byte) (u : Nibble), s.running →
    Completes (.seByte x kk) s [] [.pc] (fun t => t.pc = if s.V x = kk then s.pc + 2 else s.pc) ∧
    Completes (.sneByte x kk) s [] [.pc] (fun t => t.pc = if s.V x ≠ kk then s.pc + 2 else s.pc) ∧
    Completes (.seReg x y u) s [] [.pc] (fun t => t.pc = if s.V x = s.V y then s.pc + 2 else s.pc) ∧
    Completes (.sneReg x y u) s [] [.pc] (fun t => t.pc = if s.V x ≠ s.V y then s.pc + 2 else s.pc)

/-- 1nnn: pc is trunc_16(nnn - 2) (R146). Derived: the wrap below 0 is D4 (log 12). -/
def Obligations.JpWritesTargetMinusTwo : Prop :=
  ∀ (s : State) (nnn : Addr), s.running →
    Completes (.jp nnn) s [] [.pc] (fun t => (t.pc.toNat : Int) = ((nnn.toNat : Int) - 2) % 65536)

/-- Bnnn: pc is trunc_16(nnn + V0 - 2), the sum not reduced modulo 4096 (R147). Derived: D4. -/
def Obligations.JpV0AddsV0 : Prop :=
  ∀ (s : State) (nnn : Addr), s.running →
    Completes (.jpV0 nnn) s [] [.pc] (fun t =>
      (t.pc.toNat : Int) = ((nnn.toNat + (s.V 0).toNat : Int) - 2) % 65536)

/-- 2nnn: its own pc is pushed and control goes to nnn; with 16 entries in use StackOverflow (R144, R242). Derived: D7,
D28. -/
def Obligations.CallPushesItsOwnAddress : Prop :=
  ∀ (s : State) (nnn : Addr), s.running →
    (s.sp.val < 16 → Completes (.call nnn) s [] [.pc, .stack, .sp] (fun t =>
      t.sp.val = s.sp.val + 1 ∧ t.stack[s.sp.val]? = some s.pc ∧
      (∀ j : Fin 16, j.val ≠ s.sp.val → t.stack[j.val] = s.stack[j.val]) ∧
      (t.pc.toNat : Int) = ((nnn.toNat : Int) - 2) % 65536)) ∧
    (s.sp.val = 16 → exec (.call nnn) s = .next { s with fault := some (.stackOverflow (callWord nnn) s.pc) })

/-- 00EE: the newest entry is popped into pc and keeps its value; with no entry StackUnderflow (R145, R243). Derived: D7,
D28, and D10 for the unexamined bits u (log 7). -/
def Obligations.RetPopsTheNewestEntry : Prop :=
  ∀ (s : State) (u : Nibble), s.running →
    (0 < s.sp.val → Completes (.ret u) s [] [.pc, .sp] (fun t =>
      t.sp.val + 1 = s.sp.val ∧ s.stack[t.sp.val]? = some t.pc)) ∧
    (s.sp.val = 0 → exec (.ret u) s =
      .next { s with fault := some (.stackUnderflow (BitVec.ofNat 16 (u.toNat * 256 + 0xEE)) s.pc) })

/-- R150's property, for any nesting the stack has room for: after the calls P and Q and as many returns as Q has calls,
pc, sp, the entries in use and all else but the release latch are as they were after the calls P alone. With P empty and
one call in Q it is "execute(0x2XYZ) followed by execute(0x00EE) restores PC". -/
def Obligations.CallsUnwindInReverse : Prop :=
  ∀ (s : State) (P Q : List Addr), s.running → s.sp.val + P.length + Q.length ≤ 16 →
    ∃ p u, executeAll (P.map callWord) s = .next p ∧
      executeAll ((P ++ Q).map callWord ++ List.replicate Q.length 0x00EE) s = .next u ∧
      u.pc = p.pc ∧ u.sp = p.sp ∧ (∀ j : Fin 16, j.val < p.sp.val → u.stack[j.val] = p.stack[j.val]) ∧
      Frame p u [] [.stack, .released]

/-- A jump to itself leaves the state unchanged but for the release latch (R290). Derived: D23. -/
def Obligations.SelfJumpLeavesTheState : Prop :=
  ∀ (s : State) (nnn : Addr), s.running → s.pc.toNat = nnn.toNat → nnn.toNat ≤ 0xFFE →
    decode s.fetchWord = some (.jp nnn) → step s = .next { s with released := none }

/-! ## Index register and random -/

/-- Annn and Fx1E: I is nnn, or I + Vx modulo 2^16 with no flag (R170, R171). -/
def Obligations.IndexIsSetAndAdvanced : Prop :=
  ∀ (s : State) (nnn : Addr) (x : Reg), s.running →
    Completes (.ldI nnn) s [] [.index] (fun t => t.i.toNat = nnn.toNat) ∧
    Completes (.addI x) s [] [.index] (fun t => t.i.toNat = (s.i.toNat + (s.V x).toNat) % 65536)

/-- Cxkk: the free byte at the counter, AND kk, whatever that byte is; the next draw reads another (R172). Derived: D17
(log 2). -/
def Obligations.RndMasksAFreeByte : Prop :=
  ∀ (s : State) (x : Reg) (kk : Byte), s.running →
    Completes (.rnd x kk) s [x] [.draws] (fun t =>
      t.V x = Config.rndDraw s.draws &&& kk ∧ t.draws = s.draws + 1 ∧
      t.V x &&& ~~~kk = 0 ∧ (kk = 0 → t.V x = 0))

/-! ## Display -/

/-- 00E0: every pixel off, and nothing else (R180). Derived: that the word runs whatever its unexamined bits u is R76, the
spec's own choice D10 (log 7). -/
def Obligations.ClsTurnsEveryPixelOff : Prop :=
  ∀ (s : State) (u : Nibble), s.running →
    Completes (.cls u) s [] [.screen] (fun t => ∀ px py, px < 64 → py < 32 → t.screen.lit px py = false)

/-- Dxyn, where its n addresses are in memory: each pixel of the grid is XORed with the sprite's bit there, bits off the
grid being dropped, and nothing but the screen and VF changes (R181, R182, R184). Derived: D6, D13, D19, GK8. -/
def Obligations.DrwXorsTheClippedSprite : Prop :=
  ∀ (s : State) (x y : Reg) (n : Fin 16), s.running → (n.val = 0 ∨ s.i.toNat + n.val ≤ 0x1000) →
    Completes (.drw x y n) s [VF] [.screen] (fun t => ∀ px py, px < 64 → py < 32 →
      t.screen.lit px py =
        (s.screen.lit px py ^^ spriteCovers s n.val (drawCoord s x) (drawCoord s y) px py))

/-- Dxyn: "VF is 1 after DRW exactly when at least one collision happened, and 0 otherwise" (R183). Derived: the bit
order is GK8, and the coordinate of register VF is 0 by D13. -/
def Obligations.DrwFlagIsCollision : Prop :=
  ∀ (s : State) (x y : Reg) (n : Fin 16), s.running → (n.val = 0 ∨ s.i.toNat + n.val ≤ 0x1000) →
    ∃ t, exec (.drw x y n) s = .next t ∧
      (Collides s n.val (drawCoord s x) (drawCoord s y) → t.V VF = 1) ∧
      (¬ Collides s n.val (drawCoord s x) (drawCoord s y) → t.V VF = 0)

/-- Drawing the same sprite twice restores the screen, and the second time VF is 1 exactly when a sprite bit of 1 fell on
a pixel that was off at first. Derived from R181 to R183, D6, D13 and D19 (log 12), and GK8 of R184 (log 13). The VF
clause is the model's choice: R181's corner case gives VF 1 the second time for any sprite with an in-range bit of 1, on any
screen; the model takes R181's pseudocode and R183 over it (log 14). -/
def Obligations.DrawingTwiceRestoresTheScreen : Prop :=
  ∀ (s : State) (x y : Reg) (n : Fin 16), s.running → (n.val = 0 ∨ s.i.toNat + n.val ≤ 0x1000) →
    ∃ t u, exec (.drw x y n) s = .next t ∧ exec (.drw x y n) t = .next u ∧
      (∀ px py, px < 64 → py < 32 → u.screen.lit px py = s.screen.lit px py) ∧
      (u.V VF = 1 ↔ ∃ px py, px < 64 ∧ py < 32 ∧ s.screen.lit px py = false ∧
        spriteCovers s n.val (drawCoord s x) (drawCoord s y) px py = true)

/-! ## Keys and timers -/

/-- Ex9E and ExA1: skip when key Vx is, or is not, pressed; KeyOutOfRange above 0xF (R200, R201, R246). Derived: D14,
GK4. -/
def Obligations.KeySkipsTestTheLatch : Prop :=
  ∀ (s : State) (x : Reg), s.running →
    ((s.V x).toNat ≤ 0xF →
      Completes (.skp x) s [] [.pc] (fun t =>
        t.pc = if s.keys[(s.V x).toNat]? = some true then s.pc + 2 else s.pc) ∧
      Completes (.sknp x) s [] [.pc] (fun t =>
        t.pc = if s.keys[(s.V x).toNat]? = some false then s.pc + 2 else s.pc)) ∧
    (0xF < (s.V x).toNat →
      exec (.skp x) s =
        .next { s with fault := some (.keyOutOfRange (BitVec.ofNat 16 (0xE09E + x.val * 256)) s.pc (s.V x)) } ∧
      exec (.sknp x) s =
        .next { s with fault := some (.keyOutOfRange (BitVec.ofNat 16 (0xE0A1 + x.val * 256)) s.pc (s.V x)) })

/-- Fx0A: a pending release goes to Vx; with none pc is rewound by 2 (R202). Derived: D16, D25. -/
def Obligations.WaitForKeyTakesARelease : Prop :=
  ∀ (s : State) (x : Reg), s.running →
    (∀ k, s.released = some k → Completes (.ldVxK x) s [x] [] (fun t => (t.V x).toNat = k.val)) ∧
    (s.released = none →
      Completes (.ldVxK x) s [] [.pc] (fun t => (t.pc.toNat : Int) = ((s.pc.toNat : Int) - 2) % 65536))

/-- A step of Fx0A with no release pending leaves the whole state as it was: the same instruction runs again (R80, R207).
Derived: R80 is the spec's derivation. -/
def Obligations.WaitingStepChangesNothing : Prop :=
  ∀ (s : State) (x : Reg), s.running → s.pc.toNat ≤ 0xFFE → s.released = none →
    decode s.fetchWord = some (.ldVxK x) → step s = .next s

/-- Fx07, Fx15, Fx18 (R203, R204, R205). Derived: the direction of the first two is GK7 (log 13). -/
def Obligations.TimerMovesCopy : Prop :=
  ∀ (s : State) (x : Reg), s.running →
    Completes (.ldVxDt x) s [x] [] (fun t => t.V x = s.dt) ∧
    Completes (.ldDtVx x) s [] [.dt] (fun t => t.dt = s.V x) ∧
    Completes (.ldStVx x) s [] [.st] (fun t => t.st = s.V x)

/-- No instruction reads st (derived from R29). Whatever exec or step takes s to, either it keeps st, and from s with any
other st it does the same and keeps that one; or it writes st, and from s with any other st it gives the very same state.
So st decides neither what happens nor any value, not even the new st. -/
def Obligations.SoundTimerIsNeverRead : Prop :=
  ∀ s t : State,
    (∀ i, exec i s = .next t →
      (t.st = s.st ∧ ∀ b, exec i { s with st := b } = .next { t with st := b }) ∨
      ∀ b, exec i { s with st := b } = .next t) ∧
    (step s = .next t →
      (t.st = s.st ∧ ∀ b, step { s with st := b } = .next { t with st := b }) ∨
      ∀ b, step { s with st := b } = .next t)

/-! ## Font address, decimal digits, block transfer -/

/-- Fx29: I = (Vx & 0xF) × 6 (R220). -/
def Obligations.LdFPointsAtTheSlot : Prop :=
  ∀ (s : State) (x : Reg), s.running →
    Completes (.ldF x) s [] [.index] (fun t => t.i.toNat = (s.V x).toNat % 16 * 6)

/-- Fx33: hundreds, tens and ones at I, I + 1, I + 2, and no other byte; MemoryOutOfRange where I + 2 exceeds 0xFFF
(R221, R244). Derived: D6. -/
def Obligations.LdBStoresTheDigits : Prop :=
  ∀ (s : State) (x : Reg), s.running →
    (s.ea 2 ≤ 0xFFF → Completes (.ldB x) s [] [.memory] (fun t =>
      (t.byte (s.ea 0)).toNat = (s.V x).toNat / 100 ∧ (t.byte (s.ea 1)).toNat = (s.V x).toNat / 10 % 10 ∧
      (t.byte (s.ea 2)).toNat = (s.V x).toNat % 10 ∧
      ∀ a, (a < s.ea 0 ∨ s.ea 2 < a) → t.byte a = s.byte a)) ∧
    (0xFFF < s.ea 2 → exec (.ldB x) s = .next
      { s with
        fault := some (.memoryOutOfRange (BitVec.ofNat 16 (0xF033 + x.val * 256)) s.pc (max s.i.toNat 0x1000)) })

/-- Fx55: V0 to Vx to memory at I onward and to no other byte, then I advanced by x + 1 (R222). Derived: D6, D18. -/
def Obligations.StoreRegsStoresAndAdvances : Prop :=
  ∀ (s : State) (x : Reg), s.running → s.ea x.val ≤ 0xFFF →
    Completes (.storeRegs x) s [] [.memory, .index] (fun t =>
      (∀ k : Reg, k ≤ x → t.byte (s.ea k.val) = s.V k) ∧
      (∀ a, (a < s.ea 0 ∨ s.ea x.val < a) → t.byte a = s.byte a) ∧
      t.i.toNat = s.i.toNat + x.val + 1)

/-- Fx65: V0 to Vx from memory at I onward, the registers above x kept, then I advanced by x + 1 (R223). Derived: D6,
D18. -/
def Obligations.LoadRegsLoadsAndAdvances : Prop :=
  ∀ (s : State) (x : Reg), s.running → s.ea x.val ≤ 0xFFF →
    Completes (.loadRegs x) s ((List.finRange 16).filter (· ≤ x)) [.index] (fun t =>
      (∀ k : Reg, k ≤ x → t.V k = s.byte (s.ea k.val)) ∧ t.i.toNat = s.i.toNat + x.val + 1)

/-- What Fx55 stored, Fx65 loads back from the same I, in any state with that memory. Derived from R222 and R223. -/
def Obligations.StoredRegistersLoadBack : Prop :=
  ∀ (s t u : State) (x : Reg), s.running → exec (.storeRegs x) s = .next t → t.fault = none →
    u.running → u.i = s.i → (∀ a, u.byte a = t.byte a) →
    ∃ w, exec (.loadRegs x) u = .next w ∧ w.fault = none ∧ ∀ k : Reg, k ≤ x → w.V k = s.V k

/-- Fx29 then Dxy5 on a clear screen, where the sprite fits, shows the glyph of the digit pixel for pixel with VF 0
(95_test_vectors.md E6). Derived: the glyph bytes are GK1 (log 5) and the bit order GK8. -/
def Obligations.FontDigitIsDrawn : Prop :=
  ∀ (s : State) (x y z : Reg), s.running → (∀ a, a < 96 → s.byte a = resetByte a) →
    (∀ px py, s.screen.lit px py = false) → drawCoord s y + 8 ≤ 64 → drawCoord s z + 5 ≤ 32 →
    ∃ t u, exec (.ldF x) s = .next t ∧ exec (.drw y z 5) t = .next u ∧ u.V VF = 0 ∧
      ∀ c r, c < 8 → r < 5 → u.screen.lit (drawCoord s y + c) (drawCoord s z + r) =
        (glyphRow ((s.V x).toNat % 16) r).getLsbD (7 - c)

/-- A store is seen by the next fetch with nothing in between (R63): after Fx55, any two adjacent registers it stored are
the word fetched where they stand; so are any two adjacent digits after Fx33; and any two adjacent bytes of an image after
`load_program`. Derived: R63 is the spec's derivation. -/
def Obligations.StoredWordIsFetched : Prop :=
  ∀ s t : State,
    (∀ x j k : Reg, exec (.storeRegs x) s = .next t → t.fault = none → k ≤ x → k.val = j.val + 1 →
      (t.setPc (BitVec.ofNat 16 (s.ea j.val))).fetchWord.toNat = (s.V j).toNat * 256 + (s.V k).toNat) ∧
    (∀ x : Reg, exec (.ldB x) s = .next t → t.fault = none →
      (t.setPc (BitVec.ofNat 16 (s.ea 0))).fetchWord.toNat =
        (s.V x).toNat / 100 * 256 + (s.V x).toNat / 10 % 10 ∧
      (t.setPc (BitVec.ofNat 16 (s.ea 1))).fetchWord.toNat =
        (s.V x).toNat / 10 % 10 * 256 + (s.V x).toNat % 10) ∧
    ∀ (bytes : List Byte) (j : Nat) (h : j + 1 < bytes.length), s.loadProgram bytes = some t →
      (t.setPc (BitVec.ofNat 16 (0x200 + j))).fetchWord.toNat = bytes[j].toNat * 256 + bytes[j + 1].toNat

/-! ## Whole-machine rules and invariants -/

/-- Who changes what, over all instructions: the screen only CLS and DRW (R32); memory only Fx33 and Fx55 (R50); a stack
entry only CALL, sp only CALL and RET (R26, R27); no instruction the input latch (R30); dt only Fx15, st only Fx18 (R28,
R29); I only the writers of R23; the draw counter only RND (log 2). -/
def Obligations.OnlyListedInstructionsChangeEachPart : Prop :=
  ∀ (i : Instr) (s t : State), exec i s = .next t →
    (t.screen = s.screen ∨ (∃ u, i = .cls u) ∨ ∃ x y n, i = .drw x y n) ∧
    ((∀ a, t.byte a = s.byte a) ∨ (∃ x, i = .ldB x) ∨ ∃ x, i = .storeRegs x) ∧
    (t.stack = s.stack ∨ ∃ nnn, i = .call nnn) ∧
    (t.sp = s.sp ∨ (∃ nnn, i = .call nnn) ∨ ∃ u, i = .ret u) ∧
    t.keys = s.keys ∧
    (t.dt = s.dt ∨ ∃ x, i = .ldDtVx x) ∧ (t.st = s.st ∨ ∃ x, i = .ldStVx x) ∧
    (t.i = s.i ∨ (∃ nnn, i = .ldI nnn) ∨ (∃ x, i = .addI x) ∨ (∃ x, i = .ldF x) ∨ (∃ x, i = .storeRegs x) ∨
      ∃ x, i = .loadRegs x) ∧
    (t.draws = s.draws ∨ ∃ x kk, i = .rnd x kk)

/-- Every step keeps the invariant: memory canonical (log 6), pc at most 0x10FE, every stack entry in use at most 0xFFE.
Derived from R26, R60, R79, R80, R144 and R147. -/
def Obligations.StepKeepsTheInvariant : Prop :=
  ∀ s t : State, Inv s → step s = .next t → Inv t

/-- The state after reset meets the invariant. Derived: pc 0x200, sp 0 and the contents of memory are those of R280, the
spec's own choices D1 to D3 (log 4); that memory is canonical is the model's (log 6). -/
def Obligations.ResetMeetsTheInvariant : Prop := Inv State.reset

/-- Every run of the driver's calls, from any state with canonical memory, keeps memory canonical. Derived: the canonical
form is the model's (log 6). -/
def Obligations.DriverRunsKeepMemoryCanonical : Prop :=
  ∀ (ops : List DriverOp) (s t : State), Memory.wf s.mem → runCalls ops s = .next t → Memory.wf t.mem

/-- Two canonical memories whose 4096 bytes read alike are the same data. Derived: the canonical form is the model's
(log 6). -/
def Obligations.CanonicalMemoriesReadingAlikeAreEqual : Prop :=
  ∀ m m' : Memory, Memory.wf m → Memory.wf m' →
    (∀ a, a < 4096 → Memory.read m a = Memory.read m' a) → m = m'

/-! ## The driver's operations and reset -/

/-- `on_tick` (R256): each timer down by exactly 1, saturating at 0, after any number of ticks, and nothing else
changes. -/
def Obligations.TicksCountDownAndSaturate : Prop :=
  ∀ (s : State) (n : Nat),
    (State.onTick^[n] s).dt.toNat = s.dt.toNat - n ∧ (State.onTick^[n] s).st.toNat = s.st.toNat - n ∧
    State.onTick^[n] s = { s with dt := (State.onTick^[n] s).dt, st := (State.onTick^[n] s).st }

/-- `update_inputs` (R258): the latch is the given one; the release latch is None exactly when no key went from pressed
to not pressed, and otherwise one of those keys; nothing else changes but the draw counter. Derived: D15 (log 3). -/
def Obligations.UpdateInputsLatchesARelease : Prop :=
  ∀ (s : State) (states : Vector Bool 16),
    (s.updateInputs states).keys = states ∧
    ((s.updateInputs states).released = none ↔
      ∀ k : Fin 16, ¬ (s.keys[k.val] = true ∧ states[k.val] = false)) ∧
    (∀ k, (s.updateInputs states).released = some k → s.keys[k.val] = true ∧ states[k.val] = false) ∧
    Frame s (s.updateInputs states) [] [.keys, .released, .draws]

/-- `load_program` (R282): an image of at most 3584 bytes stands from 0x200 on and nothing else changes; a longer one is
refused with nothing written. Derived: D21. -/
def Obligations.LoadProgramCopiesTheImage : Prop :=
  ∀ (s : State) (bytes : List Byte),
    (bytes.length ≤ 3584 → ∃ t, call (.loadProgram bytes) s = .next (t, .ok) ∧
      (∀ k (h : k < bytes.length), t.byte (0x200 + k) = bytes[k]) ∧
      (∀ a, (a < 0x200 ∨ 0x200 + bytes.length ≤ a) → t.byte a = s.byte a) ∧ Frame s t [] [.memory]) ∧
    (3584 < bytes.length → call (.loadProgram bytes) s = .next (s, .romTooLarge))

/-- After reset and a load, the first step runs the big-endian word of the image's first two bytes (R58, R281). Derived:
D2. -/
def Obligations.FirstStepRunsTheImagesFirstWord : Prop :=
  ∀ (hi lo : Byte) (rest : List Byte) (i : Instr), rest.length ≤ 3582 →
    decode (BitVec.ofNat 16 (hi.toNat * 256 + lo.toNat)) = some i →
    ∃ s, State.reset.loadProgram (hi :: lo :: rest) = some s ∧
      ∀ t, exec i s = .next t →
        step s = .next (if t.fault = none then { t with pc := t.pc + 2 } else t)

/-- The accessors change nothing; they answer the registers, pc, I, memory, the pixel with wrapped coordinates, the timers
and the keys; an index out of range is refused (R260). Derived: D22. -/
def Obligations.AccessorsOnlyRead : Prop :=
  ∀ s : State,
    (∀ x : Reg, call (.register x.val) s = .next (s, .byte (s.V x))) ∧
    (∀ i, 15 < i → call (.register i) s = .next (s, .outOfRange)) ∧
    call .pc s = .next (s, .word s.pc) ∧ call .index s = .next (s, .word s.i) ∧
    (∀ a, a ≤ 0xFFF → call (.memory a) s = .next (s, .byte (s.byte a))) ∧
    (∀ a, 0xFFF < a → call (.memory a) s = .next (s, .outOfRange)) ∧
    (∀ x y, call (.pixel x y) s = .next (s, .bool (s.screen.lit (x % 64) (y % 32)))) ∧
    call .delay s = .next (s, .byte s.dt) ∧ call .sound s = .next (s, .byte s.st) ∧
    (∀ k : Fin 16, call (.key k.val) s = .next (s, .bool s.keys[k.val])) ∧
    ∀ k, 15 < k → call (.key k) s = .next (s, .outOfRange)

/-- Every call but step and execute is defined on every state, a faulted one too, and leaves the fault mark (R247).
Derived: D29. -/
def Obligations.DriverCallsKeepTheFaultMark : Prop :=
  ∀ (op : DriverOp) (s : State), op ≠ .step → (∀ w, op ≠ .execute w) →
    ∃ t r, call op s = .next (t, r) ∧ t.fault = s.fault

/-- The state after reset: the values of R280 (the spec's own choices D1 to D3, log 4); at slot 6d the five glyph bytes of
digit d, written out from the table of R53 (GK1, log 5), and zero padding (R54); zeros from 0x060 to 0xFFF (R55). Nothing is
said of addresses above 0xFFF, nor of the draw counter's value. -/
def Obligations.ResetStateIsAsListed : Prop :=
  (∀ x, State.reset.V x = 0) ∧ State.reset.i = 0 ∧ State.reset.pc = 0x200 ∧ State.reset.sp = 0 ∧
  (∀ j : Fin 16, State.reset.stack[j.val] = 0) ∧ State.reset.dt = 0 ∧ State.reset.st = 0 ∧
  (∀ k : Fin 16, State.reset.keys[k.val] = false) ∧ State.reset.released = none ∧
  (∀ px py, px < 64 → py < 32 → State.reset.screen.lit px py = false) ∧ State.reset.fault = none ∧
  ((List.range 16).map fun d => (List.range 6).map fun r => State.reset.byte (6 * d + r)) =
    [[0xF0, 0x90, 0x90, 0x90, 0xF0, 0x00], [0x20, 0x60, 0x20, 0x20, 0x70, 0x00],
     [0xF0, 0x10, 0xF0, 0x80, 0xF0, 0x00], [0xF0, 0x10, 0xF0, 0x10, 0xF0, 0x00],
     [0x90, 0x90, 0xF0, 0x10, 0x10, 0x00], [0xF0, 0x80, 0xF0, 0x10, 0xF0, 0x00],
     [0xF0, 0x80, 0xF0, 0x90, 0xF0, 0x00], [0xF0, 0x10, 0x20, 0x40, 0x40, 0x00],
     [0xF0, 0x90, 0xF0, 0x90, 0xF0, 0x00], [0xF0, 0x90, 0xF0, 0x10, 0xF0, 0x00],
     [0xF0, 0x90, 0xF0, 0x90, 0x90, 0x00], [0xE0, 0x90, 0xE0, 0x90, 0xE0, 0x00],
     [0xF0, 0x80, 0x80, 0x80, 0xF0, 0x00], [0xE0, 0x90, 0x90, 0x90, 0xE0, 0x00],
     [0xF0, 0x80, 0xF0, 0x80, 0xF0, 0x00], [0xF0, 0x80, 0xF0, 0x80, 0x80, 0x00]] ∧
  ∀ a, 0x60 ≤ a → a ≤ 0xFFF → State.reset.byte a = 0
end

