-- ==== Sys2Proof/Laws/State.lean ====
section
/-! SUPPORT. One lemma per field and update of the state, and per reader of one: what each named operation leaves alone
is seen by simp without unfolding it. -/

namespace Sys2Proof.Machine

variable (s : State)

/-! ### setV -/

@[simp] theorem State.setV_v (x : Reg) (b : Byte) : (s.setV x b).v = s.v.set x.val b := rfl
@[simp] theorem State.setV_i (x : Reg) (b : Byte) : (s.setV x b).i = s.i := rfl
@[simp] theorem State.setV_pc (x : Reg) (b : Byte) : (s.setV x b).pc = s.pc := rfl
@[simp] theorem State.setV_stack (x : Reg) (b : Byte) : (s.setV x b).stack = s.stack := rfl
@[simp] theorem State.setV_sp (x : Reg) (b : Byte) : (s.setV x b).sp = s.sp := rfl
@[simp] theorem State.setV_dt (x : Reg) (b : Byte) : (s.setV x b).dt = s.dt := rfl
@[simp] theorem State.setV_st (x : Reg) (b : Byte) : (s.setV x b).st = s.st := rfl
@[simp] theorem State.setV_keys (x : Reg) (b : Byte) : (s.setV x b).keys = s.keys := rfl
@[simp] theorem State.setV_released (x : Reg) (b : Byte) : (s.setV x b).released = s.released := rfl
@[simp] theorem State.setV_screen (x : Reg) (b : Byte) : (s.setV x b).screen = s.screen := rfl
@[simp] theorem State.setV_mem (x : Reg) (b : Byte) : (s.setV x b).mem = s.mem := rfl
@[simp] theorem State.setV_fault (x : Reg) (b : Byte) : (s.setV x b).fault = s.fault := rfl
@[simp] theorem State.setV_draws (x : Reg) (b : Byte) : (s.setV x b).draws = s.draws := rfl
@[simp] theorem State.byte_setV (x : Reg) (b : Byte) (n : Nat) : (s.setV x b).byte n = s.byte n := rfl

/-! ### setVF -/

@[simp] theorem State.setVF_v (b : Byte) : (s.setVF b).v = s.v.set 15 b := rfl
@[simp] theorem State.setVF_i (b : Byte) : (s.setVF b).i = s.i := rfl
@[simp] theorem State.setVF_pc (b : Byte) : (s.setVF b).pc = s.pc := rfl
@[simp] theorem State.setVF_stack (b : Byte) : (s.setVF b).stack = s.stack := rfl
@[simp] theorem State.setVF_sp (b : Byte) : (s.setVF b).sp = s.sp := rfl
@[simp] theorem State.setVF_dt (b : Byte) : (s.setVF b).dt = s.dt := rfl
@[simp] theorem State.setVF_st (b : Byte) : (s.setVF b).st = s.st := rfl
@[simp] theorem State.setVF_keys (b : Byte) : (s.setVF b).keys = s.keys := rfl
@[simp] theorem State.setVF_released (b : Byte) : (s.setVF b).released = s.released := rfl
@[simp] theorem State.setVF_screen (b : Byte) : (s.setVF b).screen = s.screen := rfl
@[simp] theorem State.setVF_mem (b : Byte) : (s.setVF b).mem = s.mem := rfl
@[simp] theorem State.setVF_fault (b : Byte) : (s.setVF b).fault = s.fault := rfl
@[simp] theorem State.setVF_draws (b : Byte) : (s.setVF b).draws = s.draws := rfl
@[simp] theorem State.byte_setVF (b : Byte) (n : Nat) : (s.setVF b).byte n = s.byte n := rfl

/-! ### setVUpTo -/

@[simp] theorem State.setVUpTo_i (x : Reg) (f : Nat → Byte) : (s.setVUpTo x f).i = s.i := rfl
@[simp] theorem State.setVUpTo_pc (x : Reg) (f : Nat → Byte) : (s.setVUpTo x f).pc = s.pc := rfl
@[simp] theorem State.setVUpTo_stack (x : Reg) (f : Nat → Byte) : (s.setVUpTo x f).stack = s.stack := rfl
@[simp] theorem State.setVUpTo_sp (x : Reg) (f : Nat → Byte) : (s.setVUpTo x f).sp = s.sp := rfl
@[simp] theorem State.setVUpTo_dt (x : Reg) (f : Nat → Byte) : (s.setVUpTo x f).dt = s.dt := rfl
@[simp] theorem State.setVUpTo_st (x : Reg) (f : Nat → Byte) : (s.setVUpTo x f).st = s.st := rfl
@[simp] theorem State.setVUpTo_keys (x : Reg) (f : Nat → Byte) : (s.setVUpTo x f).keys = s.keys := rfl
@[simp] theorem State.setVUpTo_released (x : Reg) (f : Nat → Byte) : (s.setVUpTo x f).released = s.released := rfl
@[simp] theorem State.setVUpTo_screen (x : Reg) (f : Nat → Byte) : (s.setVUpTo x f).screen = s.screen := rfl
@[simp] theorem State.setVUpTo_mem (x : Reg) (f : Nat → Byte) : (s.setVUpTo x f).mem = s.mem := rfl
@[simp] theorem State.setVUpTo_fault (x : Reg) (f : Nat → Byte) : (s.setVUpTo x f).fault = s.fault := rfl
@[simp] theorem State.setVUpTo_draws (x : Reg) (f : Nat → Byte) : (s.setVUpTo x f).draws = s.draws := rfl
@[simp] theorem State.byte_setVUpTo (x : Reg) (f : Nat → Byte) (n : Nat) : (s.setVUpTo x f).byte n = s.byte n := rfl

/-! ### setResult -/

@[simp] theorem State.setResult_v (x : Reg) (r f : Byte) : (s.setResult x r f).v = (s.v.set x.val r).set 15 f := rfl
@[simp] theorem State.setResult_i (x : Reg) (r f : Byte) : (s.setResult x r f).i = s.i := rfl
@[simp] theorem State.setResult_pc (x : Reg) (r f : Byte) : (s.setResult x r f).pc = s.pc := rfl
@[simp] theorem State.setResult_stack (x : Reg) (r f : Byte) : (s.setResult x r f).stack = s.stack := rfl
@[simp] theorem State.setResult_sp (x : Reg) (r f : Byte) : (s.setResult x r f).sp = s.sp := rfl
@[simp] theorem State.setResult_dt (x : Reg) (r f : Byte) : (s.setResult x r f).dt = s.dt := rfl
@[simp] theorem State.setResult_st (x : Reg) (r f : Byte) : (s.setResult x r f).st = s.st := rfl
@[simp] theorem State.setResult_keys (x : Reg) (r f : Byte) : (s.setResult x r f).keys = s.keys := rfl
@[simp] theorem State.setResult_released (x : Reg) (r f : Byte) : (s.setResult x r f).released = s.released := rfl
@[simp] theorem State.setResult_screen (x : Reg) (r f : Byte) : (s.setResult x r f).screen = s.screen := rfl
@[simp] theorem State.setResult_mem (x : Reg) (r f : Byte) : (s.setResult x r f).mem = s.mem := rfl
@[simp] theorem State.setResult_fault (x : Reg) (r f : Byte) : (s.setResult x r f).fault = s.fault := rfl
@[simp] theorem State.setResult_draws (x : Reg) (r f : Byte) : (s.setResult x r f).draws = s.draws := rfl
@[simp] theorem State.byte_setResult (x : Reg) (r f : Byte) (n : Nat) : (s.setResult x r f).byte n = s.byte n := rfl

/-! ### setI -/

@[simp] theorem State.setI_v (w : Word) : (s.setI w).v = s.v := rfl
@[simp] theorem State.setI_i (w : Word) : (s.setI w).i = w := rfl
@[simp] theorem State.setI_pc (w : Word) : (s.setI w).pc = s.pc := rfl
@[simp] theorem State.setI_stack (w : Word) : (s.setI w).stack = s.stack := rfl
@[simp] theorem State.setI_sp (w : Word) : (s.setI w).sp = s.sp := rfl
@[simp] theorem State.setI_dt (w : Word) : (s.setI w).dt = s.dt := rfl
@[simp] theorem State.setI_st (w : Word) : (s.setI w).st = s.st := rfl
@[simp] theorem State.setI_keys (w : Word) : (s.setI w).keys = s.keys := rfl
@[simp] theorem State.setI_released (w : Word) : (s.setI w).released = s.released := rfl
@[simp] theorem State.setI_screen (w : Word) : (s.setI w).screen = s.screen := rfl
@[simp] theorem State.setI_mem (w : Word) : (s.setI w).mem = s.mem := rfl
@[simp] theorem State.setI_fault (w : Word) : (s.setI w).fault = s.fault := rfl
@[simp] theorem State.setI_draws (w : Word) : (s.setI w).draws = s.draws := rfl
@[simp] theorem State.V_setI (w : Word) (j : Reg) : (s.setI w).V j = s.V j := rfl
@[simp] theorem State.byte_setI (w : Word) (n : Nat) : (s.setI w).byte n = s.byte n := rfl

/-! ### setPc -/

@[simp] theorem State.setPc_v (w : Word) : (s.setPc w).v = s.v := rfl
@[simp] theorem State.setPc_i (w : Word) : (s.setPc w).i = s.i := rfl
@[simp] theorem State.setPc_pc (w : Word) : (s.setPc w).pc = w := rfl
@[simp] theorem State.setPc_stack (w : Word) : (s.setPc w).stack = s.stack := rfl
@[simp] theorem State.setPc_sp (w : Word) : (s.setPc w).sp = s.sp := rfl
@[simp] theorem State.setPc_dt (w : Word) : (s.setPc w).dt = s.dt := rfl
@[simp] theorem State.setPc_st (w : Word) : (s.setPc w).st = s.st := rfl
@[simp] theorem State.setPc_keys (w : Word) : (s.setPc w).keys = s.keys := rfl
@[simp] theorem State.setPc_released (w : Word) : (s.setPc w).released = s.released := rfl
@[simp] theorem State.setPc_screen (w : Word) : (s.setPc w).screen = s.screen := rfl
@[simp] theorem State.setPc_mem (w : Word) : (s.setPc w).mem = s.mem := rfl
@[simp] theorem State.setPc_fault (w : Word) : (s.setPc w).fault = s.fault := rfl
@[simp] theorem State.setPc_draws (w : Word) : (s.setPc w).draws = s.draws := rfl
@[simp] theorem State.V_setPc (w : Word) (j : Reg) : (s.setPc w).V j = s.V j := rfl
@[simp] theorem State.byte_setPc (w : Word) (n : Nat) : (s.setPc w).byte n = s.byte n := rfl

/-! ### setDt -/

@[simp] theorem State.setDt_v (b : Byte) : (s.setDt b).v = s.v := rfl
@[simp] theorem State.setDt_i (b : Byte) : (s.setDt b).i = s.i := rfl
@[simp] theorem State.setDt_pc (b : Byte) : (s.setDt b).pc = s.pc := rfl
@[simp] theorem State.setDt_stack (b : Byte) : (s.setDt b).stack = s.stack := rfl
@[simp] theorem State.setDt_sp (b : Byte) : (s.setDt b).sp = s.sp := rfl
@[simp] theorem State.setDt_dt (b : Byte) : (s.setDt b).dt = b := rfl
@[simp] theorem State.setDt_st (b : Byte) : (s.setDt b).st = s.st := rfl
@[simp] theorem State.setDt_keys (b : Byte) : (s.setDt b).keys = s.keys := rfl
@[simp] theorem State.setDt_released (b : Byte) : (s.setDt b).released = s.released := rfl
@[simp] theorem State.setDt_screen (b : Byte) : (s.setDt b).screen = s.screen := rfl
@[simp] theorem State.setDt_mem (b : Byte) : (s.setDt b).mem = s.mem := rfl
@[simp] theorem State.setDt_fault (b : Byte) : (s.setDt b).fault = s.fault := rfl
@[simp] theorem State.setDt_draws (b : Byte) : (s.setDt b).draws = s.draws := rfl
@[simp] theorem State.V_setDt (b : Byte) (j : Reg) : (s.setDt b).V j = s.V j := rfl
@[simp] theorem State.byte_setDt (b : Byte) (n : Nat) : (s.setDt b).byte n = s.byte n := rfl

/-! ### setSt -/

@[simp] theorem State.setSt_v (b : Byte) : (s.setSt b).v = s.v := rfl
@[simp] theorem State.setSt_i (b : Byte) : (s.setSt b).i = s.i := rfl
@[simp] theorem State.setSt_pc (b : Byte) : (s.setSt b).pc = s.pc := rfl
@[simp] theorem State.setSt_stack (b : Byte) : (s.setSt b).stack = s.stack := rfl
@[simp] theorem State.setSt_sp (b : Byte) : (s.setSt b).sp = s.sp := rfl
@[simp] theorem State.setSt_dt (b : Byte) : (s.setSt b).dt = s.dt := rfl
@[simp] theorem State.setSt_st (b : Byte) : (s.setSt b).st = b := rfl
@[simp] theorem State.setSt_keys (b : Byte) : (s.setSt b).keys = s.keys := rfl
@[simp] theorem State.setSt_released (b : Byte) : (s.setSt b).released = s.released := rfl
@[simp] theorem State.setSt_screen (b : Byte) : (s.setSt b).screen = s.screen := rfl
@[simp] theorem State.setSt_mem (b : Byte) : (s.setSt b).mem = s.mem := rfl
@[simp] theorem State.setSt_fault (b : Byte) : (s.setSt b).fault = s.fault := rfl
@[simp] theorem State.setSt_draws (b : Byte) : (s.setSt b).draws = s.draws := rfl
@[simp] theorem State.V_setSt (b : Byte) (j : Reg) : (s.setSt b).V j = s.V j := rfl
@[simp] theorem State.byte_setSt (b : Byte) (n : Nat) : (s.setSt b).byte n = s.byte n := rfl

/-! ### setScreen -/

@[simp] theorem State.setScreen_v (c : Screen) : (s.setScreen c).v = s.v := rfl
@[simp] theorem State.setScreen_i (c : Screen) : (s.setScreen c).i = s.i := rfl
@[simp] theorem State.setScreen_pc (c : Screen) : (s.setScreen c).pc = s.pc := rfl
@[simp] theorem State.setScreen_stack (c : Screen) : (s.setScreen c).stack = s.stack := rfl
@[simp] theorem State.setScreen_sp (c : Screen) : (s.setScreen c).sp = s.sp := rfl
@[simp] theorem State.setScreen_dt (c : Screen) : (s.setScreen c).dt = s.dt := rfl
@[simp] theorem State.setScreen_st (c : Screen) : (s.setScreen c).st = s.st := rfl
@[simp] theorem State.setScreen_keys (c : Screen) : (s.setScreen c).keys = s.keys := rfl
@[simp] theorem State.setScreen_released (c : Screen) : (s.setScreen c).released = s.released := rfl
@[simp] theorem State.setScreen_screen (c : Screen) : (s.setScreen c).screen = c := rfl
@[simp] theorem State.setScreen_mem (c : Screen) : (s.setScreen c).mem = s.mem := rfl
@[simp] theorem State.setScreen_fault (c : Screen) : (s.setScreen c).fault = s.fault := rfl
@[simp] theorem State.setScreen_draws (c : Screen) : (s.setScreen c).draws = s.draws := rfl
@[simp] theorem State.V_setScreen (c : Screen) (j : Reg) : (s.setScreen c).V j = s.V j := rfl
@[simp] theorem State.byte_setScreen (c : Screen) (n : Nat) : (s.setScreen c).byte n = s.byte n := rfl

/-! ### storeBytes -/

@[simp] theorem State.storeBytes_v (a : Nat) (bs : List Byte) : (s.storeBytes a bs).v = s.v := rfl
@[simp] theorem State.storeBytes_i (a : Nat) (bs : List Byte) : (s.storeBytes a bs).i = s.i := rfl
@[simp] theorem State.storeBytes_pc (a : Nat) (bs : List Byte) : (s.storeBytes a bs).pc = s.pc := rfl
@[simp] theorem State.storeBytes_stack (a : Nat) (bs : List Byte) : (s.storeBytes a bs).stack = s.stack := rfl
@[simp] theorem State.storeBytes_sp (a : Nat) (bs : List Byte) : (s.storeBytes a bs).sp = s.sp := rfl
@[simp] theorem State.storeBytes_dt (a : Nat) (bs : List Byte) : (s.storeBytes a bs).dt = s.dt := rfl
@[simp] theorem State.storeBytes_st (a : Nat) (bs : List Byte) : (s.storeBytes a bs).st = s.st := rfl
@[simp] theorem State.storeBytes_keys (a : Nat) (bs : List Byte) : (s.storeBytes a bs).keys = s.keys := rfl
@[simp] theorem State.storeBytes_released (a : Nat) (bs : List Byte) : (s.storeBytes a bs).released = s.released := rfl
@[simp] theorem State.storeBytes_screen (a : Nat) (bs : List Byte) : (s.storeBytes a bs).screen = s.screen := rfl
@[simp] theorem State.storeBytes_mem (a : Nat) (bs : List Byte) : (s.storeBytes a bs).mem = Memory.writeBytes s.mem a bs := rfl
@[simp] theorem State.storeBytes_fault (a : Nat) (bs : List Byte) : (s.storeBytes a bs).fault = s.fault := rfl
@[simp] theorem State.storeBytes_draws (a : Nat) (bs : List Byte) : (s.storeBytes a bs).draws = s.draws := rfl
@[simp] theorem State.V_storeBytes (a : Nat) (bs : List Byte) (j : Reg) : (s.storeBytes a bs).V j = s.V j := rfl

/-! ### raise -/

@[simp] theorem State.raise_v (f : CoreFault) : (s.raise f).v = s.v := rfl
@[simp] theorem State.raise_i (f : CoreFault) : (s.raise f).i = s.i := rfl
@[simp] theorem State.raise_pc (f : CoreFault) : (s.raise f).pc = s.pc := rfl
@[simp] theorem State.raise_stack (f : CoreFault) : (s.raise f).stack = s.stack := rfl
@[simp] theorem State.raise_sp (f : CoreFault) : (s.raise f).sp = s.sp := rfl
@[simp] theorem State.raise_dt (f : CoreFault) : (s.raise f).dt = s.dt := rfl
@[simp] theorem State.raise_st (f : CoreFault) : (s.raise f).st = s.st := rfl
@[simp] theorem State.raise_keys (f : CoreFault) : (s.raise f).keys = s.keys := rfl
@[simp] theorem State.raise_released (f : CoreFault) : (s.raise f).released = s.released := rfl
@[simp] theorem State.raise_screen (f : CoreFault) : (s.raise f).screen = s.screen := rfl
@[simp] theorem State.raise_mem (f : CoreFault) : (s.raise f).mem = s.mem := rfl
@[simp] theorem State.raise_fault (f : CoreFault) : (s.raise f).fault = some f := rfl
@[simp] theorem State.raise_draws (f : CoreFault) : (s.raise f).draws = s.draws := rfl
@[simp] theorem State.V_raise (f : CoreFault) (j : Reg) : (s.raise f).V j = s.V j := rfl
@[simp] theorem State.byte_raise (f : CoreFault) (n : Nat) : (s.raise f).byte n = s.byte n := rfl

/-! ### clearReleased -/

@[simp] theorem State.clearReleased_v : (s.clearReleased).v = s.v := rfl
@[simp] theorem State.clearReleased_i : (s.clearReleased).i = s.i := rfl
@[simp] theorem State.clearReleased_pc : (s.clearReleased).pc = s.pc := rfl
@[simp] theorem State.clearReleased_stack : (s.clearReleased).stack = s.stack := rfl
@[simp] theorem State.clearReleased_sp : (s.clearReleased).sp = s.sp := rfl
@[simp] theorem State.clearReleased_dt : (s.clearReleased).dt = s.dt := rfl
@[simp] theorem State.clearReleased_st : (s.clearReleased).st = s.st := rfl
@[simp] theorem State.clearReleased_keys : (s.clearReleased).keys = s.keys := rfl
@[simp] theorem State.clearReleased_released : (s.clearReleased).released = none := rfl
@[simp] theorem State.clearReleased_screen : (s.clearReleased).screen = s.screen := rfl
@[simp] theorem State.clearReleased_mem : (s.clearReleased).mem = s.mem := rfl
@[simp] theorem State.clearReleased_fault : (s.clearReleased).fault = s.fault := rfl
@[simp] theorem State.clearReleased_draws : (s.clearReleased).draws = s.draws := rfl
@[simp] theorem State.V_clearReleased (j : Reg) : (s.clearReleased).V j = s.V j := rfl
@[simp] theorem State.byte_clearReleased (n : Nat) : (s.clearReleased).byte n = s.byte n := rfl

/-! ### nextDraw -/

@[simp] theorem State.nextDraw_v : (s.nextDraw).v = s.v := rfl
@[simp] theorem State.nextDraw_i : (s.nextDraw).i = s.i := rfl
@[simp] theorem State.nextDraw_pc : (s.nextDraw).pc = s.pc := rfl
@[simp] theorem State.nextDraw_stack : (s.nextDraw).stack = s.stack := rfl
@[simp] theorem State.nextDraw_sp : (s.nextDraw).sp = s.sp := rfl
@[simp] theorem State.nextDraw_dt : (s.nextDraw).dt = s.dt := rfl
@[simp] theorem State.nextDraw_st : (s.nextDraw).st = s.st := rfl
@[simp] theorem State.nextDraw_keys : (s.nextDraw).keys = s.keys := rfl
@[simp] theorem State.nextDraw_released : (s.nextDraw).released = s.released := rfl
@[simp] theorem State.nextDraw_screen : (s.nextDraw).screen = s.screen := rfl
@[simp] theorem State.nextDraw_mem : (s.nextDraw).mem = s.mem := rfl
@[simp] theorem State.nextDraw_fault : (s.nextDraw).fault = s.fault := rfl
@[simp] theorem State.nextDraw_draws : (s.nextDraw).draws = s.draws + 1 := rfl
@[simp] theorem State.V_nextDraw (j : Reg) : (s.nextDraw).V j = s.V j := rfl
@[simp] theorem State.byte_nextDraw (n : Nat) : (s.nextDraw).byte n = s.byte n := rfl

/-! ### transfer -/

@[simp] theorem State.transfer_v (t : Nat) : (s.transfer t).v = s.v := rfl
@[simp] theorem State.transfer_i (t : Nat) : (s.transfer t).i = s.i := rfl
@[simp] theorem State.transfer_pc (t : Nat) : (s.transfer t).pc = BitVec.ofNat 16 t - 2 := rfl
@[simp] theorem State.transfer_stack (t : Nat) : (s.transfer t).stack = s.stack := rfl
@[simp] theorem State.transfer_sp (t : Nat) : (s.transfer t).sp = s.sp := rfl
@[simp] theorem State.transfer_dt (t : Nat) : (s.transfer t).dt = s.dt := rfl
@[simp] theorem State.transfer_st (t : Nat) : (s.transfer t).st = s.st := rfl
@[simp] theorem State.transfer_keys (t : Nat) : (s.transfer t).keys = s.keys := rfl
@[simp] theorem State.transfer_released (t : Nat) : (s.transfer t).released = s.released := rfl
@[simp] theorem State.transfer_screen (t : Nat) : (s.transfer t).screen = s.screen := rfl
@[simp] theorem State.transfer_mem (t : Nat) : (s.transfer t).mem = s.mem := rfl
@[simp] theorem State.transfer_fault (t : Nat) : (s.transfer t).fault = s.fault := rfl
@[simp] theorem State.transfer_draws (t : Nat) : (s.transfer t).draws = s.draws := rfl
@[simp] theorem State.V_transfer (t : Nat) (j : Reg) : (s.transfer t).V j = s.V j := rfl
@[simp] theorem State.byte_transfer (t : Nat) (n : Nat) : (s.transfer t).byte n = s.byte n := rfl

/-! ### rewind -/

@[simp] theorem State.rewind_v : (s.rewind).v = s.v := rfl
@[simp] theorem State.rewind_i : (s.rewind).i = s.i := rfl
@[simp] theorem State.rewind_pc : (s.rewind).pc = s.pc - 2 := rfl
@[simp] theorem State.rewind_stack : (s.rewind).stack = s.stack := rfl
@[simp] theorem State.rewind_sp : (s.rewind).sp = s.sp := rfl
@[simp] theorem State.rewind_dt : (s.rewind).dt = s.dt := rfl
@[simp] theorem State.rewind_st : (s.rewind).st = s.st := rfl
@[simp] theorem State.rewind_keys : (s.rewind).keys = s.keys := rfl
@[simp] theorem State.rewind_released : (s.rewind).released = s.released := rfl
@[simp] theorem State.rewind_screen : (s.rewind).screen = s.screen := rfl
@[simp] theorem State.rewind_mem : (s.rewind).mem = s.mem := rfl
@[simp] theorem State.rewind_fault : (s.rewind).fault = s.fault := rfl
@[simp] theorem State.rewind_draws : (s.rewind).draws = s.draws := rfl
@[simp] theorem State.V_rewind (j : Reg) : (s.rewind).V j = s.V j := rfl
@[simp] theorem State.byte_rewind (n : Nat) : (s.rewind).byte n = s.byte n := rfl

/-! ### skipIf -/

@[simp] theorem State.skipIf_v (c : Bool) : (s.skipIf c).v = s.v := by cases c <;> rfl
@[simp] theorem State.skipIf_i (c : Bool) : (s.skipIf c).i = s.i := by cases c <;> rfl
@[simp] theorem State.skipIf_pc (c : Bool) : (s.skipIf c).pc = if c then s.pc + 2 else s.pc := by cases c <;> rfl
@[simp] theorem State.skipIf_stack (c : Bool) : (s.skipIf c).stack = s.stack := by cases c <;> rfl
@[simp] theorem State.skipIf_sp (c : Bool) : (s.skipIf c).sp = s.sp := by cases c <;> rfl
@[simp] theorem State.skipIf_dt (c : Bool) : (s.skipIf c).dt = s.dt := by cases c <;> rfl
@[simp] theorem State.skipIf_st (c : Bool) : (s.skipIf c).st = s.st := by cases c <;> rfl
@[simp] theorem State.skipIf_keys (c : Bool) : (s.skipIf c).keys = s.keys := by cases c <;> rfl
@[simp] theorem State.skipIf_released (c : Bool) : (s.skipIf c).released = s.released := by cases c <;> rfl
@[simp] theorem State.skipIf_screen (c : Bool) : (s.skipIf c).screen = s.screen := by cases c <;> rfl
@[simp] theorem State.skipIf_mem (c : Bool) : (s.skipIf c).mem = s.mem := by cases c <;> rfl
@[simp] theorem State.skipIf_fault (c : Bool) : (s.skipIf c).fault = s.fault := by cases c <;> rfl
@[simp] theorem State.skipIf_draws (c : Bool) : (s.skipIf c).draws = s.draws := by cases c <;> rfl
@[simp] theorem State.V_skipIf (c : Bool) (j : Reg) : (s.skipIf c).V j = s.V j := by simp [State.V]
@[simp] theorem State.byte_skipIf (c : Bool) (n : Nat) : (s.skipIf c).byte n = s.byte n := by simp [State.byte]

/-! ### push -/

@[simp] theorem State.push_v (w : Word) : (s.push w).v = s.v := by unfold State.push; split <;> rfl
@[simp] theorem State.push_i (w : Word) : (s.push w).i = s.i := by unfold State.push; split <;> rfl
@[simp] theorem State.push_pc (w : Word) : (s.push w).pc = s.pc := by unfold State.push; split <;> rfl
@[simp] theorem State.push_dt (w : Word) : (s.push w).dt = s.dt := by unfold State.push; split <;> rfl
@[simp] theorem State.push_st (w : Word) : (s.push w).st = s.st := by unfold State.push; split <;> rfl
@[simp] theorem State.push_keys (w : Word) : (s.push w).keys = s.keys := by unfold State.push; split <;> rfl
@[simp] theorem State.push_released (w : Word) : (s.push w).released = s.released := by unfold State.push; split <;> rfl
@[simp] theorem State.push_screen (w : Word) : (s.push w).screen = s.screen := by unfold State.push; split <;> rfl
@[simp] theorem State.push_mem (w : Word) : (s.push w).mem = s.mem := by unfold State.push; split <;> rfl
@[simp] theorem State.push_fault (w : Word) : (s.push w).fault = s.fault := by unfold State.push; split <;> rfl
@[simp] theorem State.push_draws (w : Word) : (s.push w).draws = s.draws := by unfold State.push; split <;> rfl
@[simp] theorem State.V_push (w : Word) (j : Reg) : (s.push w).V j = s.V j := by simp [State.V]
@[simp] theorem State.byte_push (w : Word) (n : Nat) : (s.push w).byte n = s.byte n := by simp [State.byte]

/-! ### popPc -/

@[simp] theorem State.popPc_v : (s.popPc).v = s.v := by unfold State.popPc; split <;> rfl
@[simp] theorem State.popPc_i : (s.popPc).i = s.i := by unfold State.popPc; split <;> rfl
@[simp] theorem State.popPc_stack : (s.popPc).stack = s.stack := by unfold State.popPc; split <;> rfl
@[simp] theorem State.popPc_dt : (s.popPc).dt = s.dt := by unfold State.popPc; split <;> rfl
@[simp] theorem State.popPc_st : (s.popPc).st = s.st := by unfold State.popPc; split <;> rfl
@[simp] theorem State.popPc_keys : (s.popPc).keys = s.keys := by unfold State.popPc; split <;> rfl
@[simp] theorem State.popPc_released : (s.popPc).released = s.released := by unfold State.popPc; split <;> rfl
@[simp] theorem State.popPc_screen : (s.popPc).screen = s.screen := by unfold State.popPc; split <;> rfl
@[simp] theorem State.popPc_mem : (s.popPc).mem = s.mem := by unfold State.popPc; split <;> rfl
@[simp] theorem State.popPc_fault : (s.popPc).fault = s.fault := by unfold State.popPc; split <;> rfl
@[simp] theorem State.popPc_draws : (s.popPc).draws = s.draws := by unfold State.popPc; split <;> rfl
@[simp] theorem State.V_popPc (j : Reg) : (s.popPc).V j = s.V j := by simp [State.V]
@[simp] theorem State.byte_popPc (n : Nat) : (s.popPc).byte n = s.byte n := by simp [State.byte]

/-! ### advance -/

@[simp] theorem State.advance_v : (s.advance).v = s.v := by unfold State.advance; split <;> rfl
@[simp] theorem State.advance_i : (s.advance).i = s.i := by unfold State.advance; split <;> rfl
@[simp] theorem State.advance_pc : (s.advance).pc = if s.fault.isSome then s.pc else s.pc + 2 := by unfold State.advance; split <;> rfl
@[simp] theorem State.advance_stack : (s.advance).stack = s.stack := by unfold State.advance; split <;> rfl
@[simp] theorem State.advance_sp : (s.advance).sp = s.sp := by unfold State.advance; split <;> rfl
@[simp] theorem State.advance_dt : (s.advance).dt = s.dt := by unfold State.advance; split <;> rfl
@[simp] theorem State.advance_st : (s.advance).st = s.st := by unfold State.advance; split <;> rfl
@[simp] theorem State.advance_keys : (s.advance).keys = s.keys := by unfold State.advance; split <;> rfl
@[simp] theorem State.advance_released : (s.advance).released = s.released := by unfold State.advance; split <;> rfl
@[simp] theorem State.advance_screen : (s.advance).screen = s.screen := by unfold State.advance; split <;> rfl
@[simp] theorem State.advance_mem : (s.advance).mem = s.mem := by unfold State.advance; split <;> rfl
@[simp] theorem State.advance_fault : (s.advance).fault = s.fault := by unfold State.advance; split <;> rfl
@[simp] theorem State.advance_draws : (s.advance).draws = s.draws := by unfold State.advance; split <;> rfl
@[simp] theorem State.V_advance (j : Reg) : (s.advance).V j = s.V j := by simp [State.V]
@[simp] theorem State.byte_advance (n : Nat) : (s.advance).byte n = s.byte n := by simp [State.byte]

/-! ### onTick -/

@[simp] theorem State.onTick_v : (s.onTick).v = s.v := rfl
@[simp] theorem State.onTick_i : (s.onTick).i = s.i := rfl
@[simp] theorem State.onTick_pc : (s.onTick).pc = s.pc := rfl
@[simp] theorem State.onTick_stack : (s.onTick).stack = s.stack := rfl
@[simp] theorem State.onTick_sp : (s.onTick).sp = s.sp := rfl
@[simp] theorem State.onTick_dt : (s.onTick).dt = tickDown s.dt := rfl
@[simp] theorem State.onTick_st : (s.onTick).st = tickDown s.st := rfl
@[simp] theorem State.onTick_keys : (s.onTick).keys = s.keys := rfl
@[simp] theorem State.onTick_released : (s.onTick).released = s.released := rfl
@[simp] theorem State.onTick_screen : (s.onTick).screen = s.screen := rfl
@[simp] theorem State.onTick_mem : (s.onTick).mem = s.mem := rfl
@[simp] theorem State.onTick_fault : (s.onTick).fault = s.fault := rfl
@[simp] theorem State.onTick_draws : (s.onTick).draws = s.draws := rfl
@[simp] theorem State.V_onTick (j : Reg) : (s.onTick).V j = s.V j := rfl
@[simp] theorem State.byte_onTick (n : Nat) : (s.onTick).byte n = s.byte n := rfl

end Sys2Proof.Machine
end

