-- ==== Sys2Proof/Laws/Registers.lean ====
section
/-! SUPPORT. What reading a register gives after each update of the register file, and the call stack's operations. -/

namespace Sys2Proof.Machine

variable (s : State)

theorem State.V_setV (x j : Reg) (b : Byte) : (s.setV x b).V j = if j = x then b else s.V j := by
  simp only [State.V, State.setV, Vector.getElem_set, Fin.ext_iff, eq_comm]

@[simp] theorem State.V_setV_self (x : Reg) (b : Byte) : (s.setV x b).V x = b := by simp [State.V_setV]

theorem State.V_setV_other {x j : Reg} (b : Byte) (h : j ≠ x) : (s.setV x b).V j = s.V j := by
  simp [State.V_setV, h]

theorem State.V_setVF (j : Reg) (b : Byte) : (s.setVF b).V j = if j = VF then b else s.V j :=
  s.V_setV VF j b

@[simp] theorem State.V_setVF_self (b : Byte) : (s.setVF b).V VF = b := s.V_setV_self VF b

/-- The flag is the last write, so it wins where Vx is VF itself (R22, R111). -/
theorem State.V_setResult (x j : Reg) (r f : Byte) :
    (s.setResult x r f).V j = if j = VF then f else if j = x then r else s.V j := by
  simp only [State.setResult, State.V_setVF, State.V_setV]

theorem State.V_setVUpTo (x j : Reg) (f : Nat → Byte) :
    (s.setVUpTo x f).V j = if j ≤ x then f j.val else s.V j := by
  simp [State.V, State.setVUpTo]

/-- CALL's push with room: the entry and the pointer, nothing else (R144). -/
theorem State.push_eq (w : Word) (h : s.sp.val < 16) :
    s.push w = { s with stack := s.stack.set s.sp.val w, sp := ⟨s.sp.val + 1, by omega⟩ } := by
  simp [State.push, h]

/-- RET's pop with an entry in use: the pointer and pc, nothing else (R145). -/
theorem State.popPc_eq (h : 0 < s.sp.val) :
    s.popPc = { s with sp := ⟨s.sp.val - 1, by omega⟩, pc := s.stack[s.sp.val - 1]'(by omega) } := by
  simp [State.popPc, h]

/-- The registers V0 to Vx in order (R222). -/
theorem State.getElem?_regsUpTo (x j : Reg) :
    (s.regsUpTo x)[j.val]? = if j ≤ x then some (s.V j) else none := by
  have hj := j.isLt
  simp only [State.regsUpTo, List.getElem?_take, State.V, Fin.le_def, Nat.lt_succ_iff]
  split <;> simp

@[simp] theorem State.length_regsUpTo (x : Reg) : (s.regsUpTo x).length = x.val + 1 := by
  have := x.isLt
  simp [State.regsUpTo]

end Sys2Proof.Machine
end

