-- ==== Sys2Proof/Laws/Conclude.lean ====
section
/-! SUPPORT. What the one shape of a meaning can answer, and when each check fails. -/

namespace Sys2Proof.Machine

variable {s : State} {check : Option CoreFault} {effect : State → State}

/-- Every meaning's outcome: no transition on a marked state, or the check's fault, or the effect (R78, R247, R248). -/
theorem conclude_next {t : State} :
    conclude s check effect = .next t ↔
      s.fault = none ∧ ((∃ f, check = some f ∧ t = s.raise f) ∨ (check = none ∧ t = (effect s).clearReleased)) := by
  unfold conclude
  cases s.fault <;> cases check <;> simp [eq_comm]

theorem conclude_faulted {f : CoreFault} (h : s.fault = some f) :
    conclude s check effect = .fault (.coreFaulted f) := by simp [conclude, h]

theorem conclude_raises {f : CoreFault} (h : s.fault = none) :
    conclude s (some f) effect = .next (s.raise f) := by simp [conclude, h]

theorem conclude_completes (h : s.fault = none) :
    conclude s none effect = .next (effect s).clearReleased := by simp [conclude, h]

/-! ## The sound timer (R29) -/

/-- A skip does not look at st. -/
theorem State.skipIf_withSt (s : State) (b : Byte) (c : Bool) :
    ({ s with st := b } : State).skipIf c = { s.skipIf c with st := b } := by
  simp only [State.skipIf]
  split <;> rfl

/-- A meaning whose check and effect do not look at st gives, from another st, the same state with that st. -/
theorem conclude_withSt {t : State} {check' : Option CoreFault} {effect' : State → State} (b : Byte)
    (hc : check' = check) (he : effect' { s with st := b } = { effect s with st := b })
    (h : conclude s check effect = .next t) :
    conclude { s with st := b } check' effect' = .next { t with st := b } := by
  subst hc
  rw [conclude_next] at h
  obtain ⟨h, ⟨f, hf, rfl⟩ | ⟨hf, rfl⟩⟩ := h
  · exact conclude_next.2 ⟨h, .inl ⟨f, hf, rfl⟩⟩
  · exact conclude_next.2 ⟨h, .inr ⟨hf, by rw [he]; rfl⟩⟩

/-! ## The checks -/

/-- The first failing address, from below (R56, R248). -/
theorem firstOutOfRange_eq (base n : Nat) :
    firstOutOfRange base n = if n ≠ 0 ∧ 0xFFF < base + (n - 1) then some (max base 0x1000) else none := by
  induction n with
  | zero => simp [firstOutOfRange]
  | succ n ih =>
    have hs : firstOutOfRange base (n + 1) =
        (firstOutOfRange base n).or (if 0xFFF < base + n then some (base + n) else none) := by
      simp only [firstOutOfRange, List.range_succ, List.map_append, List.find?_append, List.map_cons, List.map_nil]
      congr 1
      by_cases h : 0xFFF < base + n <;> simp [h]
    rw [hs, ih]
    by_cases h0 : n ≠ 0 ∧ 0xFFF < base + (n - 1)
    · rw [if_pos h0, if_pos (show n + 1 ≠ 0 ∧ 0xFFF < base + (n + 1 - 1) by omega)]; rfl
    · rw [if_neg h0]
      by_cases h1 : 0xFFF < base + n
      · rw [if_pos h1, if_pos (show n + 1 ≠ 0 ∧ 0xFFF < base + (n + 1 - 1) by omega)]
        exact congrArg some (by omega : base + n = max base 0x1000)
      · rw [if_neg h1, if_neg (show ¬ (n + 1 ≠ 0 ∧ 0xFFF < base + (n + 1 - 1)) by omega)]; rfl

/-- The memory check is R244's fault with the lowest failing address. -/
theorem memCheck_eq (w : Opcode) (n : Nat) (s : State) : memCheck w n s = accessFault w s n := by
  simp only [memCheck, firstOutOfRange_eq, accessFault, State.ea, Nat.add_zero]
  split <;> rfl

theorem pushCheck_eq (w : Opcode) (s : State) :
    pushCheck w s = if s.sp.val = 16 then some (.stackOverflow w s.pc) else none := by
  have := s.sp.isLt
  unfold pushCheck
  split <;> split <;> first | rfl | omega

theorem popCheck_eq (w : Opcode) (s : State) :
    popCheck w s = if s.sp.val = 0 then some (.stackUnderflow w s.pc) else none := by
  unfold popCheck
  split <;> split <;> first | rfl | omega

theorem keyCheck_eq (w : Opcode) (k : Byte) (s : State) :
    keyCheck w k s = if 0x0F < k.toNat then some (.keyOutOfRange w s.pc k) else none := by
  unfold keyCheck
  split <;> split <;> first | rfl | omega

end Sys2Proof.Machine
end

