-- ==== Sys2Proof/Laws/Decode.lean ====
section
/-! SUPPORT. The fields of a word put together from parts: each part reads back (R71, R72). -/

namespace Sys2Proof

variable (c u n : Nibble) (x y : Reg) (kk : Byte) (nnn : Addr)

/-! ### Four nibbles -/

theorem extract_nibbles (a b c d : Nibble) :
    (((a ++ b : BitVec 8) ++ (c ++ d : BitVec 8) : BitVec 16).extractLsb' 12 4 = a) ∧
    (((a ++ b : BitVec 8) ++ (c ++ d : BitVec 8) : BitVec 16).extractLsb' 8 4 = b) ∧
    (((a ++ b : BitVec 8) ++ (c ++ d : BitVec 8) : BitVec 16).extractLsb' 4 4 = c) ∧
    (((a ++ b : BitVec 8) ++ (c ++ d : BitVec 8) : BitVec 16).extractLsb' 0 4 = d) := by
  refine ⟨?_, ?_, ?_, ?_⟩ <;>
  · ext i hi
    simp only [BitVec.getElem_extractLsb', BitVec.getLsbD_append]
    interval_cases i <;> simp [BitVec.getLsbD_eq_getElem]

@[simp] theorem category_formXYN : category (formXYN c x y n) = c := (extract_nibbles ..).1

@[simp] theorem fieldX_formXYN : fieldX (formXYN c x y n) = x :=
  congrArg BitVec.toFin (extract_nibbles c (BitVec.ofFin (w := 4) x) (BitVec.ofFin (w := 4) y) n).2.1

@[simp] theorem fieldY_formXYN : fieldY (formXYN c x y n) = y :=
  congrArg BitVec.toFin (extract_nibbles c (BitVec.ofFin (w := 4) x) (BitVec.ofFin (w := 4) y) n).2.2.1

@[simp] theorem bits3to0_formXYN : bits3to0 (formXYN c x y n) = n := (extract_nibbles ..).2.2.2

@[simp] theorem fieldN_formXYN : fieldN (formXYN c x y n) = n.toFin :=
  congrArg BitVec.toFin (bits3to0_formXYN c n x y)

/-! ### Two nibbles and a byte -/

theorem extract_nibbles_byte (a b : Nibble) (k : Byte) :
    (((a ++ b : BitVec 8) ++ k : BitVec 16).extractLsb' 12 4 = a) ∧
    (((a ++ b : BitVec 8) ++ k : BitVec 16).extractLsb' 8 4 = b) ∧
    (((a ++ b : BitVec 8) ++ k : BitVec 16).extractLsb' 0 8 = k) := by
  refine ⟨?_, ?_, ?_⟩ <;>
  · ext i hi
    simp only [BitVec.getElem_extractLsb', BitVec.getLsbD_append]
    interval_cases i <;> simp [BitVec.getLsbD_eq_getElem]

@[simp] theorem category_formXKK : category (formXKK c x kk) = c := (extract_nibbles_byte ..).1

@[simp] theorem fieldX_formXKK : fieldX (formXKK c x kk) = x :=
  congrArg BitVec.toFin (extract_nibbles_byte c (BitVec.ofFin (w := 4) x) kk).2.1

@[simp] theorem fieldKk_formXKK : fieldKk (formXKK c x kk) = kk := (extract_nibbles_byte ..).2.2

@[simp] theorem category_formZ : category (formZ u kk) = 0 := (extract_nibbles_byte ..).1

@[simp] theorem bits11to8_formZ : bits11to8 (formZ u kk) = u := (extract_nibbles_byte ..).2.1

@[simp] theorem fieldKk_formZ : fieldKk (formZ u kk) = kk := (extract_nibbles_byte ..).2.2

/-! ### A nibble and an address -/

theorem extract_nibble_addr (a : Nibble) (k : Addr) :
    ((a ++ k : BitVec 16).extractLsb' 12 4 = a) ∧ ((a ++ k : BitVec 16).extractLsb' 0 12 = k) := by
  refine ⟨?_, ?_⟩ <;>
  · ext i hi
    simp only [BitVec.getElem_extractLsb', BitVec.getLsbD_append]
    interval_cases i <;> simp [BitVec.getLsbD_eq_getElem]

@[simp] theorem category_formN : category (formN c nnn) = c := (extract_nibble_addr ..).1

@[simp] theorem fieldNnn_formN : fieldNnn (formN c nnn) = nnn := (extract_nibble_addr ..).2

/-! ### A word from its own fields -/

theorem nibbles_of_word (w : Opcode) :
    ((w.extractLsb' 12 4 ++ w.extractLsb' 8 4 : BitVec 8) ++ (w.extractLsb' 4 4 ++ w.extractLsb' 0 4 : BitVec 8) :
      BitVec 16) = w := by
  ext i hi
  simp only [BitVec.getElem_append]
  interval_cases i <;> simp [BitVec.getLsbD_eq_getElem]

theorem nibbles_byte_of_word (w : Opcode) :
    ((w.extractLsb' 12 4 ++ w.extractLsb' 8 4 : BitVec 8) ++ w.extractLsb' 0 8 : BitVec 16) = w := by
  ext i hi
  simp only [BitVec.getElem_append]
  interval_cases i <;> simp [BitVec.getLsbD_eq_getElem]

theorem formXYN_fields (w : Opcode) : formXYN (category w) (fieldX w) (fieldY w) (bits3to0 w) = w :=
  nibbles_of_word w

theorem formXKK_fields (w : Opcode) : formXKK (category w) (fieldX w) (fieldKk w) = w :=
  nibbles_byte_of_word w

theorem formZ_fields (w : Opcode) (h : category w = 0) : formZ (bits11to8 w) (fieldKk w) = w := by
  have := nibbles_byte_of_word w
  rwa [show w.extractLsb' 12 4 = 0 from h] at this

theorem formN_fields (w : Opcode) : formN (category w) (fieldNnn w) = w := by
  unfold formN category fieldNnn
  ext i hi
  simp only [BitVec.getElem_append]
  interval_cases i <;> simp [BitVec.getLsbD_eq_getElem]

/-! ### A word under the masks of R84 -/

theorem nibble_and_ones : c &&& 15#4 = c := BitVec.and_allOnes

theorem byte_and_ones : kk &&& 255#8 = kk := BitVec.and_allOnes

theorem mask_category_formN : formN c nnn &&& 0xF000 = formN c 0 := by
  rw [show (0xF000 : BitVec 16) = (0xF#4 ++ 0#12 : BitVec 16) from rfl]
  exact BitVec.and_append.trans (by simp [formN, nibble_and_ones])

theorem mask_category_formXKK : formXKK c x kk &&& 0xF000 = formXKK c 0 0 := by
  rw [show (0xF000 : BitVec 16) = ((0xF#4 ++ 0#4 : BitVec 8) ++ 0#8 : BitVec 16) from rfl]
  exact BitVec.and_append.trans (by rw [BitVec.and_append]; simp [formXKK, nibble_and_ones])

theorem mask_function_formXKK : formXKK c x kk &&& 0xF0FF = formXKK c 0 kk := by
  rw [show (0xF0FF : BitVec 16) = ((0xF#4 ++ 0#4 : BitVec 8) ++ 0xFF#8 : BitVec 16) from rfl]
  exact BitVec.and_append.trans (by rw [BitVec.and_append]; simp [formXKK, nibble_and_ones, byte_and_ones])

theorem mask_function_formZ : formZ u kk &&& 0xF0FF = formZ 0 kk := by
  rw [show (0xF0FF : BitVec 16) = ((0xF#4 ++ 0#4 : BitVec 8) ++ 0xFF#8 : BitVec 16) from rfl]
  exact BitVec.and_append.trans (by rw [BitVec.and_append]; simp [formZ, byte_and_ones])

theorem mask_category_formXYN : formXYN c x y n &&& 0xF000 = formXYN c 0 0 0 := by
  rw [show (0xF000 : BitVec 16) = ((0xF#4 ++ 0#4 : BitVec 8) ++ (0#4 ++ 0#4 : BitVec 8) : BitVec 16) from rfl]
  exact BitVec.and_append.trans (by rw [BitVec.and_append, BitVec.and_append]; simp [formXYN, nibble_and_ones])

theorem mask_nibble_formXYN : formXYN c x y n &&& 0xF00F = formXYN c 0 0 n := by
  rw [show (0xF00F : BitVec 16) = ((0xF#4 ++ 0#4 : BitVec 8) ++ (0#4 ++ 0xF#4 : BitVec 8) : BitVec 16) from rfl]
  exact BitVec.and_append.trans (by rw [BitVec.and_append, BitVec.and_append]; simp [formXYN, nibble_and_ones])

/-! ### The word at an address -/

/-- The big-endian word of two bytes (R58). -/
theorem toNat_wordOf (hi lo : Byte) : (wordOf hi lo).toNat = hi.toNat * 256 + lo.toNat := by
  unfold wordOf
  rw [BitVec.toNat_append, ← Nat.shiftLeft_add_eq_or_of_lt lo.isLt, Nat.shiftLeft_eq]

/-- The bytes of a word make the word (R58). -/
theorem wordOf_bytes (w : Opcode) : wordOf (w.extractLsb' 8 8) (w.extractLsb' 0 8) = w := by
  unfold wordOf
  ext i hi
  simp only [BitVec.getElem_append]
  interval_cases i <;> simp [BitVec.getLsbD_eq_getElem]

end Sys2Proof
end

