-- ==== Sys2Proof/Laws/Memory.lean ====
section
/-! SUPPORT. The laws of memory: a read after a write, and that every operation keeps the canonical form. -/

namespace Sys2Proof.Machine

variable (m : Memory)

/-! ## Reads -/

@[simp] theorem Memory.read_nil (n : Nat) : Memory.read [] n = resetByte n := rfl

theorem Memory.read_cons (c : Host.Cell) (n : Nat) :
    Memory.read (c :: m) n = if n = c.1 then c.2 else Memory.read m n := rfl

theorem Memory.read_erase (a n : Nat) :
    Memory.read (Memory.erase m a) n = if n = a then resetByte a else Memory.read m n := by
  induction m with
  | nil => simp only [Memory.erase, List.filter_nil, Memory.read_nil]; split <;> simp_all
  | cons c rest ih =>
    have ih : Memory.read (rest.filter fun c => c.1 != a) n = _ := ih
    by_cases hc : c.1 = a
    · simp only [Memory.erase, List.filter_cons, hc, bne_self_eq_false, Bool.false_eq_true, if_false, ih,
        Memory.read_cons]
      split <;> simp_all
    · simp only [Memory.erase, List.filter_cons, bne_iff_ne, ne_eq, hc, not_false_eq_true, if_true, ih,
        Memory.read_cons]
      split
      · next h => rw [h, if_neg hc]
      · rfl

theorem Memory.read_insert (a n : Nat) (b : Byte) (h : ∀ c ∈ m, c.1 ≠ a) :
    Memory.read (Memory.insert m a b) n = if n = a then b else Memory.read m n := by
  induction m with
  | nil => rfl
  | cons c rest ih =>
    have ih := ih fun c hc => h c (List.mem_cons_of_mem _ hc)
    have hc : c.1 ≠ a := h c List.mem_cons_self
    simp only [Memory.insert]
    split
    · rfl
    · simp only [Memory.read_cons, ih]
      split
      · next e => rw [if_neg (e ▸ hc)]
      · rfl

theorem Memory.erase_ne (a : Nat) : ∀ c ∈ Memory.erase m a, c.1 ≠ a := by
  intro c hc
  simpa [Memory.erase] using (List.mem_filter.1 hc).2

/-- A read gives what was last written there, and a write leaves every other byte alone (R57, R61). -/
theorem Memory.read_write (a n : Nat) (b : Byte) :
    Memory.read (Memory.write m a b) n = if n = a then b else Memory.read m n := by
  simp only [Memory.write]
  split
  · next h => rw [Memory.read_erase, h]
  · rw [Memory.read_insert _ a n b (Memory.erase_ne m a), Memory.read_erase]
    split <;> rfl

/-- Bytes written at increasing addresses: each reads back, and every byte outside them is as before (R57). -/
theorem Memory.read_writeBytes (a n : Nat) (bs : List Byte) :
    Memory.read (Memory.writeBytes m a bs) n =
      if a ≤ n then (bs[n - a]?).getD (Memory.read m n) else Memory.read m n := by
  induction bs generalizing m a with
  | nil => simp [Memory.writeBytes]
  | cons b bs ih =>
    rw [Memory.writeBytes, ih, Memory.read_write]
    rcases Nat.lt_trichotomy n a with h | h | h
    · simp [show ¬ a + 1 ≤ n by omega, show ¬ a ≤ n by omega, show n ≠ a by omega]
    · simp [h]
    · simp [show a + 1 ≤ n by omega, show a ≤ n by omega, show n ≠ a by omega,
        show n - a = (n - (a + 1)) + 1 by omega]

theorem State.byte_storeBytes (s : State) (a n : Nat) (bs : List Byte) :
    (s.storeBytes a bs).byte n = if a ≤ n then (bs[n - a]?).getD (s.byte n) else s.byte n :=
  Memory.read_writeBytes s.mem a n bs

/-- A store changes no byte outside the ones it writes. -/
theorem State.byte_storeBytes_outside (s : State) (a n : Nat) (bs : List Byte)
    (h : n < a ∨ a + bs.length ≤ n) : (s.storeBytes a bs).byte n = s.byte n := by
  rw [State.byte_storeBytes]
  split
  · rw [List.getElem?_eq_none (by omega)]; rfl
  · rfl

@[simp] theorem Memory.length_readBytes (a n : Nat) : (Memory.readBytes m a n).length = n := by
  simp [Memory.readBytes]

/-! ## The canonical form -/

theorem Memory.wf_nil : Memory.wf [] := by simp [Memory.wf]

theorem Memory.wf_erase (a : Nat) (h : Memory.wf m) : Memory.wf (Memory.erase m a) :=
  ⟨h.1.filter _, fun c hc => h.2 c (List.mem_of_mem_filter hc)⟩

theorem Memory.mem_insert (a : Nat) (b : Byte) (c : Host.Cell) :
    c ∈ Memory.insert m a b ↔ c = (a, b) ∨ c ∈ m := by
  induction m with
  | nil => simp [Memory.insert]
  | cons d rest ih =>
    simp only [Memory.insert]
    split
    · simp
    · simp only [List.mem_cons, ih]; tauto

theorem Memory.wf_insert (a : Nat) (b : Byte) (h : Memory.wf m) (ha : a < Config.memSize) (hb : b ≠ resetByte a)
    (hne : ∀ c ∈ m, c.1 ≠ a) : Memory.wf (Memory.insert m a b) := by
  refine ⟨?_, fun c hc => ?_⟩
  · have hp := h.1
    clear h
    induction m with
    | nil => simp [Memory.insert]
    | cons d rest ih =>
      have hd := List.pairwise_cons.1 hp
      have hda : d.1 ≠ a := hne d List.mem_cons_self
      simp only [Memory.insert]
      split
      · next hlt =>
        refine List.pairwise_cons.2 ⟨fun c hc => ?_, hp⟩
        rcases List.mem_cons.1 hc with rfl | hc
        · exact hlt
        · exact Nat.lt_trans hlt (hd.1 c hc)
      · next hlt =>
        refine List.pairwise_cons.2 ⟨fun c hc => ?_, ih (fun c hc => hne c (List.mem_cons_of_mem _ hc)) hd.2⟩
        rcases (Memory.mem_insert rest a b c).1 hc with rfl | hc
        · simp only; omega
        · exact hd.1 c hc
  · rcases (Memory.mem_insert m a b c).1 hc with rfl | hc
    · exact ⟨ha, hb⟩
    · exact h.2 c hc

/-- A write into memory keeps the canonical form. -/
theorem Memory.wf_write (a : Nat) (b : Byte) (h : Memory.wf m) (ha : a < Config.memSize) :
    Memory.wf (Memory.write m a b) := by
  simp only [Memory.write]
  split
  · exact Memory.wf_erase m a h
  · next hb => exact Memory.wf_insert _ a b (Memory.wf_erase m a h) ha hb (Memory.erase_ne m a)

/-- Bytes written into memory keep the canonical form. -/
theorem Memory.wf_writeBytes (a : Nat) (bs : List Byte) (h : Memory.wf m) (ha : a + bs.length ≤ Config.memSize) :
    Memory.wf (Memory.writeBytes m a bs) := by
  induction bs generalizing m a with
  | nil => exact h
  | cons b bs ih =>
    simp only [List.length_cons] at ha
    exact ih _ _ (Memory.wf_write m a b h (by omega)) (by omega)

end Sys2Proof.Machine
end

