-- ==== Sys2Proof/Laws/Screen.lean ====
section
/-! SUPPORT. What drawing does, pixel by pixel: the XOR of the sprite with the screen, and when a collision is seen. -/

namespace Sys2Proof.Machine

theorem Screen.lit_of_outside (scr : Screen) {px py : Nat} (h : ¬ (px < 64 ∧ py < 32)) : scr.lit px py = false := by
  simp [Screen.lit, h]

@[simp] theorem Screen.lit_blank (px py : Nat) : Screen.blank.lit px py = false := by
  simp [Screen.lit, Screen.blank]

/-- Inverting one pixel inverts it if it is on the grid, and leaves every other (R182, R183). -/
theorem Screen.lit_flip (scr : Screen) (px py qx qy : Nat) :
    (scr.flip px py).lit qx qy =
      if qx = px ∧ qy = py ∧ px < 64 ∧ py < 32 then !scr.lit qx qy else scr.lit qx qy := by
  by_cases hp : px < 64 ∧ py < 32
  · by_cases hq : qx < 64 ∧ qy < 32
    · simp only [Screen.flip, Screen.lit, hp, hq, and_self, and_true, dite_true]
      simp only [Vector.getElem_set]
      by_cases hy : py = qy
      · subst hy
        by_cases hx : px = qx
        · subst hx; simp
        · simp [hx, Ne.symm hx]
      · simp [hy, Ne.symm hy]
    · have : ¬ (qx = px ∧ qy = py ∧ px < 64 ∧ py < 32) := by omega
      rw [if_neg this, Screen.lit_of_outside _ hq, Screen.lit_of_outside _ hq]
  · simp [Screen.flip, hp]

/-- The sprite rows `bs`, drawn from (cx, cy), have a bit of 1 at (qx, qy) (R181, R184). -/
def spriteBit (bs : List Byte) (cx cy qx qy : Nat) : Bool :=
  decide (cx ≤ qx ∧ qx < cx + 8 ∧ cy ≤ qy ∧ qy < cy + bs.length) &&
    (bs.getD (qy - cy) 0).getLsbD (7 - (qx - cx))

/-- The first k columns of a row (R181). -/
def Drawing.columns (d : Drawing) (b : Byte) (cx py k : Nat) : Drawing :=
  (List.range k).foldl (fun d c => if b.getLsbD (7 - c) then d.xorPixel (cx + c) py else d) d

theorem Drawing.columns_succ (d : Drawing) (b : Byte) (cx py k : Nat) :
    d.columns b cx py (k + 1) =
      if b.getLsbD (7 - k) then (d.columns b cx py k).xorPixel (cx + k) py else d.columns b cx py k := by
  simp [Drawing.columns, List.range_succ]

theorem Drawing.lit_columns (d : Drawing) (b : Byte) (cx py k qx qy : Nat) (hq : qx < 64 ∧ qy < 32) :
    (d.columns b cx py k).1.lit qx qy =
      (d.1.lit qx qy ^^ (decide (cx ≤ qx ∧ qx < cx + k ∧ qy = py) && b.getLsbD (7 - (qx - cx)))) := by
  induction k with
  | zero =>
    rw [decide_eq_false (by omega)]
    simp [Drawing.columns]
  | succ k ih =>
    rw [Drawing.columns_succ]
    by_cases hk : qx = cx + k ∧ qy = py
    · obtain ⟨rfl, rfl⟩ := hk
      have h0 : decide (cx ≤ cx + k ∧ cx + k < cx + k ∧ qy = qy) = false := by simp
      have h1 : decide (cx ≤ cx + k ∧ cx + k < cx + (k + 1) ∧ qy = qy) = true := by simp
      have h2 : cx + k - cx = k := by omega
      rw [h0] at ih
      rw [h1, h2]
      split
      · next hb => simp [Drawing.xorPixel, Screen.lit_flip, hq, ih, hb]
      · next hb => simp [ih, hb]
    · have h0 : decide (cx ≤ qx ∧ qx < cx + (k + 1) ∧ qy = py) = decide (cx ≤ qx ∧ qx < cx + k ∧ qy = py) := by
        rw [decide_eq_decide]; omega
      rw [h0, ← ih]
      split
      · rw [Drawing.xorPixel, Screen.lit_flip, if_neg (by omega)]
      · rfl

theorem Drawing.collision_columns (d : Drawing) (b : Byte) (cx py k : Nat) :
    (d.columns b cx py k).2 = true ↔
      d.2 = true ∨ ∃ c < k, b.getLsbD (7 - c) = true ∧ d.1.lit (cx + c) py = true := by
  induction k with
  | zero => simp [Drawing.columns]
  | succ k ih =>
    have hlit : (d.columns b cx py k).1.lit (cx + k) py = d.1.lit (cx + k) py := by
      by_cases hg : cx + k < 64 ∧ py < 32
      · rw [Drawing.lit_columns _ _ _ _ _ _ _ hg, decide_eq_false (by omega)]; simp
      · rw [Screen.lit_of_outside _ hg, Screen.lit_of_outside _ hg]
    rw [Drawing.columns_succ]
    by_cases hb : b.getLsbD (7 - k) = true
    · simp only [hb, if_true, Drawing.xorPixel, Bool.or_eq_true, ih, hlit, or_assoc]
      refine or_congr_right ⟨?_, ?_⟩
      · rintro (⟨c, hc, h⟩ | h)
        · exact ⟨c, by omega, h⟩
        · exact ⟨k, by omega, hb, h⟩
      · rintro ⟨c, hc, h⟩
        rcases Nat.lt_succ_iff_lt_or_eq.1 hc with hc | rfl
        · exact .inl ⟨c, hc, h⟩
        · exact .inr h.2
    · simp only [hb, Bool.false_eq_true, if_false, ih]
      refine or_congr_right ⟨fun ⟨c, hc, h⟩ => ⟨c, by omega, h⟩, fun ⟨c, hc, h⟩ => ?_⟩
      rcases Nat.lt_succ_iff_lt_or_eq.1 hc with hc | rfl
      · exact ⟨c, hc, h⟩
      · exact absurd h.1 hb

theorem Drawing.lit_row (d : Drawing) (b : Byte) (cx py qx qy : Nat) (hq : qx < 64 ∧ qy < 32) :
    (d.row b cx py).1.lit qx qy =
      (d.1.lit qx qy ^^ (decide (cx ≤ qx ∧ qx < cx + 8 ∧ qy = py) && b.getLsbD (7 - (qx - cx)))) :=
  d.lit_columns b cx py 8 qx qy hq

theorem Drawing.collision_row (d : Drawing) (b : Byte) (cx py : Nat) :
    (d.row b cx py).2 = true ↔
      d.2 = true ∨ ∃ c < 8, b.getLsbD (7 - c) = true ∧ d.1.lit (cx + c) py = true :=
  d.collision_columns b cx py 8

theorem spriteBit_cons (b : Byte) (bs : List Byte) (cx py qx qy : Nat) :
    spriteBit (b :: bs) cx py qx qy =
      ((decide (cx ≤ qx ∧ qx < cx + 8 ∧ qy = py) && b.getLsbD (7 - (qx - cx))) ^^
        spriteBit bs cx (py + 1) qx qy) := by
  unfold spriteBit
  by_cases hy : qy = py
  · subst hy
    simp [show ¬ qy + 1 ≤ qy by omega]
  · by_cases hp : py + 1 ≤ qy
    · have h1 : qy - py = (qy - (py + 1)) + 1 := by omega
      have h2 : decide (cx ≤ qx ∧ qx < cx + 8 ∧ qy = py) = false := by simp [hy]
      have h3 : (py ≤ qy ∧ qy < py + (bs.length + 1)) ↔ (py + 1 ≤ qy ∧ qy < py + 1 + bs.length) := by omega
      rw [h2, h1]
      simp only [List.length_cons, h3, List.getD_cons_succ, Bool.false_and, Bool.false_xor]
    · simp [hy, hp, show ¬ py ≤ qy by omega]

/-- Every pixel of the grid after the sprite's rows: XORed with the sprite's bit there (R181, R182). -/
theorem Drawing.lit_rows (d : Drawing) (cx py : Nat) (bs : List Byte) (qx qy : Nat) (hq : qx < 64 ∧ qy < 32) :
    (d.rows cx py bs).1.lit qx qy = (d.1.lit qx qy ^^ spriteBit bs cx py qx qy) := by
  induction bs generalizing d py with
  | nil => simp [Drawing.rows, spriteBit]
  | cons b bs ih => rw [Drawing.rows, ih, Drawing.lit_row _ _ _ _ _ _ hq, spriteBit_cons, Bool.xor_assoc]

/-- A collision is seen exactly when a sprite bit of 1 lands on a pixel that was lit before the drawing (R183). -/
theorem Drawing.collision_rows (d : Drawing) (cx py : Nat) (bs : List Byte) :
    (d.rows cx py bs).2 = true ↔
      d.2 = true ∨ ∃ qx qy, qx < 64 ∧ qy < 32 ∧ spriteBit bs cx py qx qy = true ∧ d.1.lit qx qy = true := by
  induction bs generalizing d py with
  | nil => simp [Drawing.rows, spriteBit]
  | cons b bs ih =>
    rw [Drawing.rows, ih, Drawing.collision_row, or_assoc]
    refine or_congr_right ⟨?_, ?_⟩
    · rintro (⟨c, hc, hb, hl⟩ | ⟨qx, qy, hx, hy, hs, hl⟩)
      · have hg : cx + c < 64 ∧ py < 32 := by
          by_contra hg; rw [Screen.lit_of_outside _ hg] at hl; cases hl
        refine ⟨cx + c, py, hg.1, hg.2, ?_, hl⟩
        simp [spriteBit, hc, hb]
      · have hy' : py + 1 ≤ qy := by simp [spriteBit] at hs; omega
        refine ⟨qx, qy, hx, hy, ?_, ?_⟩
        · rw [spriteBit_cons, hs, decide_eq_false (by omega)]; simp
        · rw [Drawing.lit_row _ _ _ _ _ _ ⟨hx, hy⟩, decide_eq_false (by omega)] at hl; simpa using hl
    · rintro ⟨qx, qy, hx, hy, hs, hl⟩
      by_cases hp : qy = py
      · subst hp
        simp only [spriteBit, Bool.and_eq_true, decide_eq_true_eq, Nat.sub_self, List.getD_cons_zero] at hs
        exact .inl ⟨qx - cx, by omega, hs.2, by rwa [show cx + (qx - cx) = qx by omega]⟩
      · have h0 : decide (cx ≤ qx ∧ qx < cx + 8 ∧ qy = py) = false := by simp [hp]
        refine .inr ⟨qx, qy, hx, hy, ?_, ?_⟩
        · rw [spriteBit_cons, h0] at hs; simpa using hs
        · rw [Drawing.lit_row _ _ _ _ _ _ ⟨hx, hy⟩, h0]; simpa using hl

end Sys2Proof.Machine
end

