-- ==== Sys2Proof/Laws/Exec.lean ====
section
/-! SUPPORT. What exec, execute and step can answer: every meaning has the one shape of `conclude`, with the fault R240
lists as its check. -/

namespace Sys2Proof.Machine

/-- Every instruction is its effect behind the check R240 lists for it (R78, R240, R248). -/
theorem exec_shape (i : Instr) (s : State) :
    ∃ effect : State → State, exec i s = conclude s (instrFault i s) effect := by
  cases i
  case call nnn => exact ⟨_, by rw [instrFault, ← pushCheck_eq]; rfl⟩
  case ret u => exact ⟨_, by rw [instrFault, ← popCheck_eq]; rfl⟩
  case drw x y n => exact ⟨_, by rw [instrFault, ← memCheck_eq]; rfl⟩
  case ldB x => exact ⟨_, by rw [instrFault, ← memCheck_eq]; rfl⟩
  case storeRegs x => exact ⟨_, by rw [instrFault, ← memCheck_eq]; rfl⟩
  case loadRegs x => exact ⟨_, by rw [instrFault, ← memCheck_eq]; rfl⟩
  case skp x => exact ⟨_, by rw [instrFault, ← keyCheck_eq]; rfl⟩
  case sknp x => exact ⟨_, by rw [instrFault, ← keyCheck_eq]; rfl⟩
  all_goals
    simp only [exec, instrFault, execCls, execJp, execSeByte, execSneByte, execSeReg, execLdByte, execAddByte,
      execLdReg, execOr, execAnd, execXor, execAddReg, execSub, execShr, execSubn, execShl, execSneReg, execLdI,
      execJpV0, execRnd, execLdVxDt, execLdVxK, execLdDtVx, execLdStVx, execAddI, execLdF]
    exact ⟨_, rfl⟩

/-- exec on a running core: the listed fault, or an effect and the release latch cleared. -/
theorem exec_running (i : Instr) (s : State) (h : s.fault = none) :
    (∃ f, instrFault i s = some f ∧ exec i s = .next (s.raise f)) ∨
    (instrFault i s = none ∧ ∃ effect : State → State, exec i s = .next (effect s).clearReleased) := by
  obtain ⟨effect, he⟩ := exec_shape i s
  cases hc : instrFault i s with
  | some f => exact .inl ⟨f, rfl, by rw [he, hc, conclude_raises h]⟩
  | none => exact .inr ⟨rfl, effect, by rw [he, hc, conclude_completes h]⟩

/-- The listed fault is what exec takes (R240, R247). -/
theorem exec_raises {i : Instr} {s : State} {f : CoreFault} (h : s.fault = none) (hf : instrFault i s = some f) :
    exec i s = .next (s.raise f) := by
  obtain ⟨effect, he⟩ := exec_shape i s
  rw [he, hf, conclude_raises h]

/-- What exec answers on a running core: always a next state, marked with exactly the fault R240 lists for it, which is
then all that changed, and otherwise with the release latch cleared (R81, R240, R247). -/
theorem exec_outcome (i : Instr) (s : State) (h : s.fault = none) :
    ∃ t, exec i s = .next t ∧ t.fault = instrFault i s ∧
      (∀ f, instrFault i s = some f → t = s.raise f) ∧ (instrFault i s = none → t.released = none) := by
  rcases exec_running i s h with ⟨f, hf, he⟩ | ⟨hn, e, he⟩
  · exact ⟨_, he, by rw [hf]; rfl, fun g hg => by rw [hf] at hg; cases hg; rfl, fun hg => by rw [hf] at hg; cases hg⟩
  · refine ⟨_, he, ?_, fun g hg => (by rw [hn] at hg; cases hg), fun _ => rfl⟩
    rw [hn]
    cases i <;> simp only [exec, execCls, execJp, execSeByte, execSneByte, execSeReg, execLdByte, execAddByte,
      execLdReg, execOr, execAnd, execXor, execAddReg, execSub, execShr, execSubn, execShl, execSneReg, execLdI,
      execJpV0, execRnd, execLdVxDt, execLdVxK, execLdDtVx, execLdStVx, execAddI, execLdF, execDrw, execLdB,
      execStoreRegs, execLoadRegs, execSkp, execSknp, execCall, execRet, memCheck_eq, pushCheck_eq, popCheck_eq,
      keyCheck_eq] at he <;>
    · rw [conclude_next] at he
      obtain ⟨-, ⟨f, hf, -⟩ | ⟨-, ht⟩⟩ := he
      · cases hf.symm.trans hn
      · rw [ht]
        first
          | (simp [h]; done)
          | (simp only [State.clearReleased_fault]; split <;> simp [h])

theorem exec_faulted (i : Instr) (s : State) (f : CoreFault) (h : s.fault = some f) :
    exec i s = .fault (.coreFaulted f) := by
  obtain ⟨effect, he⟩ := exec_shape i s
  rw [he, conclude_faulted h]

/-- A step of a running core (R79): fetch range, decode, the instruction, the advance. -/
theorem step_running (s : State) (h : s.fault = none) :
    step s =
      if s.pc.toNat ≤ 0xFFE then
        match decode s.fetchWord with
        | none => .next (s.raise (.invalidOpcode s.fetchWord s.pc))
        | some i =>
          match exec i s with
          | .next t => .next t.advance
          | .fault f => .fault f
          | .refused r => .refused r
      else .next (s.raise (.fetchOutOfRange s.pc)) := by
  simp only [step, stepWith, h, State.fetchInRange, decide_eq_true_eq, executeWith]
  split
  · cases decode s.fetchWord <;> rfl
  · rfl

theorem step_faulted (s : State) (f : CoreFault) (h : s.fault = some f) : step s = .fault (.coreFaulted f) := by
  simp [step, stepWith, h]

theorem execute_running (w : Opcode) (s : State) (h : s.fault = none) :
    execute w s =
      match decode w with
      | some i => exec i s
      | none => .next (s.raise (.invalidOpcode w s.pc)) := by
  cases hd : decode w <;> simp only [execute, executeWith, h, hd]

theorem execute_faulted (w : Opcode) (s : State) (f : CoreFault) (h : s.fault = some f) :
    execute w s = .fault (.coreFaulted f) := by
  simp [execute, executeWith, h]

/-- The word fetched is the big-endian one (R58). -/
theorem State.toNat_fetchWord (s : State) :
    s.fetchWord.toNat = (s.byte s.pc.toNat).toNat * 256 + (s.byte (s.pc.toNat + 1)).toNat :=
  toNat_wordOf _ _

/-- The word fetched with pc at an address: the two bytes there (R58). -/
theorem State.toNat_fetchWord_setPc (s : State) (a : Nat) (ha : a < 65536) :
    (s.setPc (BitVec.ofNat 16 a)).fetchWord.toNat = (s.byte a).toNat * 256 + (s.byte (a + 1)).toNat := by
  rw [State.toNat_fetchWord]
  simp [Nat.mod_eq_of_lt ha]

/-- Each register that Fx55 stores reads back at its address (R222). -/
theorem State.byte_storeBytes_regsUpTo (s : State) (x k : Reg) (hk : k ≤ x) :
    (s.storeBytes (s.ea 0) (s.regsUpTo x)).byte (s.ea k.val) = s.V k := by
  rw [State.byte_storeBytes, if_pos (by simp [State.ea]), show s.ea k.val - s.ea 0 = k.val by simp [State.ea],
    State.getElem?_regsUpTo, if_pos hk]
  rfl

/-- No fault mark is set by an effect: an instruction that completes leaves the core running. -/
theorem exec_completes {i : Instr} {s t : State} (h : exec i s = .next t) (ht : t.fault = none) :
    s.fault = none ∧ instrFault i s = none := by
  cases hs : s.fault with
  | some f => rw [exec_faulted i s f hs] at h; cases h
  | none =>
    refine ⟨rfl, ?_⟩
    rcases exec_running i s hs with ⟨f, hf, he⟩ | ⟨hn, -⟩
    · rw [he] at h; cases h; cases ht
    · exact hn

/-- A completion from its parts: the next state, its frame and what holds of it. -/
theorem Completes.of_next {i : Instr} {s t : State} {regs : List Reg} {parts : List Part} {post : State → Prop}
    (he : exec i s = .next t.clearReleased) (hf : t.fault = none) (hv : ∀ j, j ∉ regs → t.V j = s.V j)
    (hp : ∀ p, p ∉ (.released :: parts : List Part) → p.Same s t.clearReleased) (hpost : post t.clearReleased) :
    Completes i s regs parts post :=
  ⟨_, he, hf, rfl, ⟨hv, hp⟩, hpost⟩

/-! ## The sprite as Safety.lean names it -/

/-- The column or row DRW reads is the register's value after VF is cleared (D13). -/
theorem toNat_drawCoord (s : State) (x : Reg) : ((s.setVF 0).V x).toNat = drawCoord s x := by
  rw [State.V_setVF, drawCoord]
  split <;> rfl

/-- The bits of the n bytes at I, drawn from (cx, cy) (R181, R184). -/
theorem spriteBit_sprite (s : State) (n cx cy px py : Nat) :
    spriteBit (s.sprite n) cx cy px py = spriteCovers s n cx cy px py := by
  simp only [spriteBit, spriteCovers, State.sprite, Memory.length_readBytes]
  by_cases h : cx ≤ px ∧ px < cx + 8 ∧ cy ≤ py ∧ py < cy + n
  · have hr : py - cy < n := by omega
    have : (Memory.readBytes s.mem (s.ea 0) n).getD (py - cy) 0 = s.byte (s.ea (py - cy)) := by
      simp [Memory.readBytes, List.getD_eq_getElem?_getD, hr, State.byte, State.ea]
    rw [this]
  · rw [decide_eq_false h]; rfl

/-- No address of the access is out of range (R56). -/
theorem accessFault_eq_none (w : Opcode) (s : State) (n : Nat) (h : n = 0 ∨ s.i.toNat + n ≤ 0x1000) :
    accessFault w s n = none := by
  rw [accessFault, if_neg (by omega)]

/-! ## One lemma per instruction: its next state where its check passes -/

section Completion

variable (s : State)

theorem exec_cls (u : Nibble) (h : s.fault = none) :
    exec (.cls u) s = .next (s.setScreen Screen.blank).clearReleased :=
  conclude_completes (effect := fun s => s.setScreen Screen.blank) h

theorem exec_ret (u : Nibble) (h : s.fault = none) (hc : 0 < s.sp.val) :
    exec (.ret u) s = .next (s.popPc).clearReleased := by
  simp only [exec, execRet, conclude, popCheck, h, hc, if_true]

theorem exec_jp (nnn : Addr) (h : s.fault = none) :
    exec (.jp nnn) s = .next (s.transfer nnn.toNat).clearReleased :=
  conclude_completes (effect := fun s => s.transfer nnn.toNat) h

theorem exec_call (nnn : Addr) (h : s.fault = none) (hc : s.sp.val < 16) :
    exec (.call nnn) s = .next ((s.push s.pc).transfer nnn.toNat).clearReleased := by
  simp only [exec, execCall, conclude, pushCheck, h, hc, if_true]

theorem exec_seByte (x : Reg) (kk : Byte) (h : s.fault = none) :
    exec (.seByte x kk) s = .next (s.skipIf (s.V x == kk)).clearReleased :=
  conclude_completes (effect := fun s => s.skipIf (s.V x == kk)) h

theorem exec_sneByte (x : Reg) (kk : Byte) (h : s.fault = none) :
    exec (.sneByte x kk) s = .next (s.skipIf (s.V x != kk)).clearReleased :=
  conclude_completes (effect := fun s => s.skipIf (s.V x != kk)) h

theorem exec_seReg (x y : Reg) (u : Nibble) (h : s.fault = none) :
    exec (.seReg x y u) s = .next (s.skipIf (s.V x == s.V y)).clearReleased :=
  conclude_completes (effect := fun s => s.skipIf (s.V x == s.V y)) h

theorem exec_ldByte (x : Reg) (kk : Byte) (h : s.fault = none) :
    exec (.ldByte x kk) s = .next (s.setV x kk).clearReleased :=
  conclude_completes (effect := fun s => s.setV x kk) h

theorem exec_addByte (x : Reg) (kk : Byte) (h : s.fault = none) :
    exec (.addByte x kk) s = .next (s.setV x (s.V x + kk)).clearReleased :=
  conclude_completes (effect := fun s => s.setV x (s.V x + kk)) h

theorem exec_ldReg (x y : Reg) (h : s.fault = none) :
    exec (.ldReg x y) s = .next (s.setV x (s.V y)).clearReleased :=
  conclude_completes (effect := fun s => s.setV x (s.V y)) h

theorem exec_orReg (x y : Reg) (h : s.fault = none) :
    exec (.orReg x y) s = .next (s.setResult x (s.V x ||| s.V y) 0).clearReleased :=
  conclude_completes (effect := fun s => s.setResult x (s.V x ||| s.V y) 0) h

theorem exec_andReg (x y : Reg) (h : s.fault = none) :
    exec (.andReg x y) s = .next (s.setResult x (s.V x &&& s.V y) 0).clearReleased :=
  conclude_completes (effect := fun s => s.setResult x (s.V x &&& s.V y) 0) h

theorem exec_xorReg (x y : Reg) (h : s.fault = none) :
    exec (.xorReg x y) s = .next (s.setResult x (s.V x ^^^ s.V y) 0).clearReleased :=
  conclude_completes (effect := fun s => s.setResult x (s.V x ^^^ s.V y) 0) h

theorem exec_addReg (x y : Reg) (h : s.fault = none) :
    exec (.addReg x y) s = .next (s.setResult x (s.V x + s.V y) (carryFlag (s.V x) (s.V y))).clearReleased :=
  conclude_completes (effect := fun s => s.setResult x (s.V x + s.V y) (carryFlag (s.V x) (s.V y))) h

theorem exec_subReg (x y : Reg) (h : s.fault = none) :
    exec (.subReg x y) s = .next (s.setResult x (s.V x - s.V y) (notBorrowFlag (s.V x) (s.V y))).clearReleased :=
  conclude_completes (effect := fun s => s.setResult x (s.V x - s.V y) (notBorrowFlag (s.V x) (s.V y))) h

theorem exec_shr (x y : Reg) (h : s.fault = none) :
    exec (.shr x y) s = .next (s.setResult x (s.V y >>> 1) (shrFlag (s.V y))).clearReleased :=
  conclude_completes (effect := fun s => s.setResult x (s.V y >>> 1) (shrFlag (s.V y))) h

theorem exec_subnReg (x y : Reg) (h : s.fault = none) :
    exec (.subnReg x y) s = .next (s.setResult x (s.V y - s.V x) (notBorrowFlag (s.V y) (s.V x))).clearReleased :=
  conclude_completes (effect := fun s => s.setResult x (s.V y - s.V x) (notBorrowFlag (s.V y) (s.V x))) h

theorem exec_shl (x y : Reg) (h : s.fault = none) :
    exec (.shl x y) s = .next (s.setResult x (s.V y <<< 1) (shlFlag (s.V y))).clearReleased :=
  conclude_completes (effect := fun s => s.setResult x (s.V y <<< 1) (shlFlag (s.V y))) h

theorem exec_sneReg (x y : Reg) (u : Nibble) (h : s.fault = none) :
    exec (.sneReg x y u) s = .next (s.skipIf (s.V x != s.V y)).clearReleased :=
  conclude_completes (effect := fun s => s.skipIf (s.V x != s.V y)) h

theorem exec_ldI (nnn : Addr) (h : s.fault = none) :
    exec (.ldI nnn) s = .next (s.setI (nnn.zeroExtend 16)).clearReleased :=
  conclude_completes (effect := fun s => s.setI (nnn.zeroExtend 16)) h

theorem exec_jpV0 (nnn : Addr) (h : s.fault = none) :
    exec (.jpV0 nnn) s = .next (s.transfer (nnn.toNat + (s.V 0).toNat)).clearReleased :=
  conclude_completes (effect := fun s => s.transfer (nnn.toNat + (s.V 0).toNat)) h

theorem exec_rnd (x : Reg) (kk : Byte) (h : s.fault = none) :
    exec (.rnd x kk) s = .next ((s.setV x (s.drawByte &&& kk)).nextDraw).clearReleased :=
  conclude_completes (effect := fun s => (s.setV x (s.drawByte &&& kk)).nextDraw) h

theorem exec_skp (x : Reg) (h : s.fault = none) (hc : (s.V x).toNat ≤ 0xF) :
    exec (.skp x) s = .next (s.skipIf (s.keyDown (s.V x).toNat)).clearReleased := by
  simp only [exec, execSkp, conclude, keyCheck, h, hc, if_true]

theorem exec_sknp (x : Reg) (h : s.fault = none) (hc : (s.V x).toNat ≤ 0xF) :
    exec (.sknp x) s = .next (s.skipIf (!s.keyDown (s.V x).toNat)).clearReleased := by
  simp only [exec, execSknp, conclude, keyCheck, h, hc, if_true]

theorem exec_ldVxDt (x : Reg) (h : s.fault = none) :
    exec (.ldVxDt x) s = .next (s.setV x s.dt).clearReleased :=
  conclude_completes (effect := fun s => s.setV x s.dt) h

theorem exec_ldDtVx (x : Reg) (h : s.fault = none) :
    exec (.ldDtVx x) s = .next (s.setDt (s.V x)).clearReleased :=
  conclude_completes (effect := fun s => s.setDt (s.V x)) h

theorem exec_ldStVx (x : Reg) (h : s.fault = none) :
    exec (.ldStVx x) s = .next (s.setSt (s.V x)).clearReleased :=
  conclude_completes (effect := fun s => s.setSt (s.V x)) h

theorem exec_addI (x : Reg) (h : s.fault = none) :
    exec (.addI x) s = .next (s.setI (s.i + (s.V x).zeroExtend 16)).clearReleased :=
  conclude_completes (effect := fun s => s.setI (s.i + (s.V x).zeroExtend 16)) h

theorem exec_ldF (x : Reg) (h : s.fault = none) :
    exec (.ldF x) s = .next (s.setI (BitVec.ofNat 16 (fontAddress (s.V x)))).clearReleased :=
  conclude_completes (effect := fun s => s.setI (BitVec.ofNat 16 (fontAddress (s.V x)))) h

/-- DRW's next state: the sprite drawn over the screen with VF cleared first (R181). -/
theorem exec_drw (x y : Reg) (n : Fin 16) (h : s.fault = none) (hc : accessFault (encode (.drw x y n)) s n.val = none) :
    exec (.drw x y n) s = .next
      ((((s.setVF 0).setVF (flagByte
        (Drawing.rows (s.screen, false) ((s.setVF 0).V x).toNat ((s.setVF 0).V y).toNat (s.sprite n.val)).2)).setScreen
        (Drawing.rows (s.screen, false) ((s.setVF 0).V x).toNat ((s.setVF 0).V y).toNat (s.sprite n.val)).1)).clearReleased := by
  simp only [exec, execDrw, conclude, memCheck_eq, h, hc]
  rfl

theorem exec_ldVxK_some (x : Reg) (k : Fin 16) (h : s.fault = none) (hr : s.released = some k) :
    exec (.ldVxK x) s = .next (s.setV x (BitVec.ofNat 8 k.val)).clearReleased := by
  simp only [exec, execLdVxK, conclude, h, hr]

theorem exec_ldVxK_none (x : Reg) (h : s.fault = none) (hr : s.released = none) :
    exec (.ldVxK x) s = .next s.rewind.clearReleased := by
  simp only [exec, execLdVxK, conclude, h, hr]

theorem exec_ldB (x : Reg) (h : s.fault = none) (hc : accessFault (encode (.ldB x)) s 3 = none) :
    exec (.ldB x) s = .next (s.storeBytes (s.ea 0) (bcdDigits (s.V x))).clearReleased := by
  simp only [exec, execLdB, conclude, memCheck_eq, h, hc]

theorem exec_storeRegs (x : Reg) (h : s.fault = none)
    (hc : accessFault (encode (.storeRegs x)) s (x.val + 1) = none) :
    exec (.storeRegs x) s = .next
      ((s.storeBytes (s.ea 0) (s.regsUpTo x)).setI (BitVec.ofNat 16 (s.ea (x.val + 1)))).clearReleased := by
  simp only [exec, execStoreRegs, conclude, memCheck_eq, h, hc]

theorem exec_loadRegs (x : Reg) (h : s.fault = none)
    (hc : accessFault (encode (.loadRegs x)) s (x.val + 1) = none) :
    exec (.loadRegs x) s = .next
      ((s.setVUpTo x fun k => s.byte (s.ea k)).setI (BitVec.ofNat 16 (s.ea (x.val + 1)))).clearReleased := by
  simp only [exec, execLoadRegs, conclude, memCheck_eq, h, hc]

end Completion

end Sys2Proof.Machine
end

