-- ==== Sys2Proof/Laws/Driver.lean ====
section
/-! SUPPORT. What the driver's operations do: the tick, the input update and program loading. -/

namespace Sys2Proof.Machine

/-- One tick: down by one, saturating at 0 (R256). -/
theorem toNat_tickDown (b : Byte) : (tickDown b).toNat = b.toNat - 1 := by
  unfold tickDown
  split
  · bv_omega
  · omega

/-- The released keys of an update: pressed before, not pressed now (R258). -/
theorem mem_releasedKeys (old new : Vector Bool 16) (k : Fin 16) :
    k ∈ releasedKeys old new ↔ old[k.val] = true ∧ new[k.val] = false := by
  simp [releasedKeys]

/-- An input update touches the two latches and the draw counter only (R258). -/
theorem State.updateInputs_eq (s : State) (states : Vector Bool 16) :
    s.updateInputs states =
      { s with keys := states, released := (s.updateInputs states).released,
               draws := (s.updateInputs states).draws } := by
  unfold State.updateInputs
  split <;> rfl

/-- Loading: the bytes stored from 0x200 on, or a refusal (R282). -/
theorem State.loadProgram_eq (s : State) (bytes : List Byte) :
    s.loadProgram bytes = if bytes.length ≤ 3584 then some (s.storeBytes 0x200 bytes) else none := rfl

/-- The reset state's memory is canonical. -/
theorem State.wf_reset : Memory.wf State.reset.mem := Memory.wf_nil

/-- A canonical memory reads back each of its entries. -/
theorem Memory.read_of_mem (m : Memory) (h : Memory.wf m) (c : Host.Cell) (hc : c ∈ m) : Memory.read m c.1 = c.2 := by
  induction m with
  | nil => cases hc
  | cons d m ih =>
    have hp := List.pairwise_cons.1 h.1
    rw [Memory.read_cons]
    rcases List.mem_cons.1 hc with rfl | hc
    · simp
    · rw [if_neg (by have := hp.1 c hc; omega)]
      exact ih ⟨hp.2, fun c hc => h.2 c (List.mem_cons_of_mem _ hc)⟩ hc

/-- An address without an entry reads as its reset contents. -/
theorem Memory.read_of_not_mem (m : Memory) (n : Nat) (h : ∀ c ∈ m, c.1 ≠ n) : Memory.read m n = resetByte n := by
  induction m with
  | nil => rfl
  | cons d m ih =>
    rw [Memory.read_cons, if_neg (Ne.symm (h d List.mem_cons_self)), ih fun c hc => h c (List.mem_cons_of_mem _ hc)]

end Sys2Proof.Machine
end

