-- ==== Sys2Proof/Laws/PerInstr.lean ====
section
/-! SUPPORT. The per-instruction family EncodesInRow: each instruction's word matches its row of the opcode map (R84). -/

namespace Sys2Proof.Laws.EncodesInRow

/-- The word of the instruction matches its row, and the row is one of the 34 (R84). -/
def Statement (i : Instr) : Prop := i.row ∈ opcodeMap ∧ encode i &&& i.row.mask = i.row.value

variable (u : Nibble) (x y : Reg) (kk : Byte) (nnn : Addr) (n : Fin 16)

theorem cls : Statement (.cls u) := ⟨by simp [Instr.row, opcodeMap], mask_function_formZ ..⟩
theorem ret : Statement (.ret u) := ⟨by simp [Instr.row, opcodeMap], mask_function_formZ ..⟩
theorem jp : Statement (.jp nnn) := ⟨by simp [Instr.row, opcodeMap], mask_category_formN ..⟩
theorem call : Statement (.call nnn) := ⟨by simp [Instr.row, opcodeMap], mask_category_formN ..⟩
theorem seByte : Statement (.seByte x kk) := ⟨by simp [Instr.row, opcodeMap], mask_category_formXKK ..⟩
theorem sneByte : Statement (.sneByte x kk) := ⟨by simp [Instr.row, opcodeMap], mask_category_formXKK ..⟩
theorem seReg : Statement (.seReg x y u) := ⟨by simp [Instr.row, opcodeMap], mask_category_formXYN ..⟩
theorem ldByte : Statement (.ldByte x kk) := ⟨by simp [Instr.row, opcodeMap], mask_category_formXKK ..⟩
theorem addByte : Statement (.addByte x kk) := ⟨by simp [Instr.row, opcodeMap], mask_category_formXKK ..⟩
theorem ldReg : Statement (.ldReg x y) := ⟨by simp [Instr.row, opcodeMap], mask_nibble_formXYN ..⟩
theorem orReg : Statement (.orReg x y) := ⟨by simp [Instr.row, opcodeMap], mask_nibble_formXYN ..⟩
theorem andReg : Statement (.andReg x y) := ⟨by simp [Instr.row, opcodeMap], mask_nibble_formXYN ..⟩
theorem xorReg : Statement (.xorReg x y) := ⟨by simp [Instr.row, opcodeMap], mask_nibble_formXYN ..⟩
theorem addReg : Statement (.addReg x y) := ⟨by simp [Instr.row, opcodeMap], mask_nibble_formXYN ..⟩
theorem subReg : Statement (.subReg x y) := ⟨by simp [Instr.row, opcodeMap], mask_nibble_formXYN ..⟩
theorem shr : Statement (.shr x y) := ⟨by simp [Instr.row, opcodeMap], mask_nibble_formXYN ..⟩
theorem subnReg : Statement (.subnReg x y) := ⟨by simp [Instr.row, opcodeMap], mask_nibble_formXYN ..⟩
theorem shl : Statement (.shl x y) := ⟨by simp [Instr.row, opcodeMap], mask_nibble_formXYN ..⟩
theorem sneReg : Statement (.sneReg x y u) := ⟨by simp [Instr.row, opcodeMap], mask_category_formXYN ..⟩
theorem ldI : Statement (.ldI nnn) := ⟨by simp [Instr.row, opcodeMap], mask_category_formN ..⟩
theorem jpV0 : Statement (.jpV0 nnn) := ⟨by simp [Instr.row, opcodeMap], mask_category_formN ..⟩
theorem rnd : Statement (.rnd x kk) := ⟨by simp [Instr.row, opcodeMap], mask_category_formXKK ..⟩
theorem drw : Statement (.drw x y n) := ⟨by simp [Instr.row, opcodeMap], mask_category_formXYN ..⟩
theorem skp : Statement (.skp x) := ⟨by simp [Instr.row, opcodeMap], mask_function_formXKK ..⟩
theorem sknp : Statement (.sknp x) := ⟨by simp [Instr.row, opcodeMap], mask_function_formXKK ..⟩
theorem ldVxDt : Statement (.ldVxDt x) := ⟨by simp [Instr.row, opcodeMap], mask_function_formXKK ..⟩
theorem ldVxK : Statement (.ldVxK x) := ⟨by simp [Instr.row, opcodeMap], mask_function_formXKK ..⟩
theorem ldDtVx : Statement (.ldDtVx x) := ⟨by simp [Instr.row, opcodeMap], mask_function_formXKK ..⟩
theorem ldStVx : Statement (.ldStVx x) := ⟨by simp [Instr.row, opcodeMap], mask_function_formXKK ..⟩
theorem addI : Statement (.addI x) := ⟨by simp [Instr.row, opcodeMap], mask_function_formXKK ..⟩
theorem ldF : Statement (.ldF x) := ⟨by simp [Instr.row, opcodeMap], mask_function_formXKK ..⟩
theorem ldB : Statement (.ldB x) := ⟨by simp [Instr.row, opcodeMap], mask_function_formXKK ..⟩
theorem storeRegs : Statement (.storeRegs x) := ⟨by simp [Instr.row, opcodeMap], mask_function_formXKK ..⟩
theorem loadRegs : Statement (.loadRegs x) := ⟨by simp [Instr.row, opcodeMap], mask_function_formXKK ..⟩

end Sys2Proof.Laws.EncodesInRow
end

