-- ==== Sys2Proof/WellFormed.lean ====
section
/-! DEFINITION. The static check of an instruction.

The operand fields of `Instr` have exactly the widths of R71, so no operand can be out of range and there is nothing
to check there. What remains is the form: the opcode forms of R84 (00E0, 00EE, 5xy0, 9xy0), which the assembler
syntax of R85 names, are written with their unexamined bits zero. A word with other bits there is decoded and runs all
the same (R75, R76); decode, exec and every statement cover it, and none of them consults this check. -/

namespace Sys2Proof

/-- The instruction is written in its row's form of R84: the bits the decoder does not examine are zero. -/
def Instr.wellFormed : Instr → Bool
  | .cls u => u == 0
  | .ret u => u == 0
  | .seReg _ _ u => u == 0
  | .sneReg _ _ u => u == 0
  | .jp _ => true
  | .call _ => true
  | .seByte _ _ => true
  | .sneByte _ _ => true
  | .ldByte _ _ => true
  | .addByte _ _ => true
  | .ldReg _ _ => true
  | .orReg _ _ => true
  | .andReg _ _ => true
  | .xorReg _ _ => true
  | .addReg _ _ => true
  | .subReg _ _ => true
  | .shr _ _ => true
  | .subnReg _ _ => true
  | .shl _ _ => true
  | .ldI _ => true
  | .jpV0 _ => true
  | .rnd _ _ => true
  | .drw _ _ _ => true
  | .skp _ => true
  | .sknp _ => true
  | .ldVxDt _ => true
  | .ldVxK _ => true
  | .ldDtVx _ => true
  | .ldStVx _ => true
  | .addI _ => true
  | .ldF _ => true
  | .ldB _ => true
  | .storeRegs _ => true
  | .loadRegs _ => true

end Sys2Proof
end

