-- ==== Sys2Proof/Tests/Slice0.lean ====
section
/-! SUPPORT. The model's own tests. Expected results are those of spec/95_test_vectors.md (named "E<n>" or by section)
or worked out by hand from the rule cited; and a witness for the hypotheses of each statement, at the boundary values of
its clauses. -/

namespace Sys2Proof.Tests

open Sys2Proof Sys2Proof.Machine

/-! ## Helpers -/

/-- What is read of the next state. -/
def after {α : Type} (o : Out) (f : State → α) : Option α :=
  match o with
  | .next t => some (f t)
  | .fault _ => none
  | .refused _ => none

/-- The same after a driver's call, with its reply. -/
def afterCall {α : Type} (o : Host.Outcome (State × Reply) Fault Refusal) (f : State → α) : Option (α × Reply) :=
  match o with
  | .next (t, r) => some (f t, r)
  | .fault _ => none
  | .refused _ => none

/-- Reset with two registers set. -/
def regs (x : Reg) (a : Byte) (y : Reg) (b : Byte) : State := (State.reset.setV x a).setV y b

/-- Reset with I set, V0 = a, V1 = b and bytes stored at I. -/
def atI (i : Word) (a b : Byte) (bytes : List Byte) : State :=
  ((regs 0 a 1 b).setI i).storeBytes i.toNat bytes

/-- Reset with `n` stack entries in use, all 0x0200. -/
def depth (n : Fin 17) : State := { State.reset with sp := n, stack := Vector.replicate 16 0x0200 }

/-- Reset with one key pressed. -/
def pressed (k : Fin 16) : State := { State.reset with keys := (Vector.replicate 16 false).set k.val true }

/-- A step with the word placed where it is fetched. -/
def stepWord (w : Opcode) (s : State) : Out := step (s.placeWord w)

/-! ## WellFormed: an ill-formed term for each check -/

theorem test_wellFormed_refuses_cls : (Instr.cls 1).wellFormed = false ∧ (Instr.cls 0).wellFormed = true := by decide
theorem test_wellFormed_refuses_ret : (Instr.ret 15).wellFormed = false ∧ (Instr.ret 0).wellFormed = true := by decide
theorem test_wellFormed_refuses_seReg :
    (Instr.seReg 1 2 8).wellFormed = false ∧ (Instr.seReg 1 2 0).wellFormed = true := by decide
theorem test_wellFormed_refuses_sneReg :
    (Instr.sneReg 1 2 1).wellFormed = false ∧ (Instr.sneReg 1 2 0).wellFormed = true := by decide

/-! ## Decode and encode: words written out from the encodings of R84, nibble by nibble -/

theorem test_decode_cat0 : decode 0b0000000011100000 = some (.cls 0) ∧ decode 0x05E0 = some (.cls 5) ∧
    decode 0b0000000011101110 = some (.ret 0) ∧ decode 0x0000 = none ∧ decode 0x0123 = none := by decide
theorem test_decode_jump : decode 0b0001001000110100 = some (.jp 0x234) ∧
    decode 0b0010001101000101 = some (.call 0x345) ∧ decode 0xBA00 = some (.jpV0 0xA00) := by decide
theorem test_decode_skip : decode 0b0011001000010000 = some (.seByte 2 0x10) ∧ decode 0x4AFE = some (.sneByte 10 0xFE) ∧
    decode 0x5121 = some (.seReg 1 2 1) ∧ decode 0x912F = some (.sneReg 1 2 15) := by decide
theorem test_decode_byte : decode 0b0110000001000010 = some (.ldByte 0 0x42) ∧
    decode 0x7F01 = some (.addByte 15 0x01) ∧ decode 0xC30F = some (.rnd 3 0x0F) := by decide
theorem test_decode_cat8 : decode 0x8010 = some (.ldReg 0 1) ∧ decode 0x8F11 = some (.orReg 15 1) ∧
    decode 0x8122 = some (.andReg 1 2) ∧ decode 0x8343 = some (.xorReg 3 4) ∧ decode 0x8564 = some (.addReg 5 6) ∧
    decode 0x8785 = some (.subReg 7 8) ∧ decode 0x89A6 = some (.shr 9 10) ∧ decode 0x8BC7 = some (.subnReg 11 12) ∧
    decode 0b1000101010111110 = some (.shl 10 11) := by decide
theorem test_decode_cat8_invalid : decode 0x8008 = none ∧ decode 0x800D = none ∧ decode 0x800F = none := by decide
theorem test_decode_index : decode 0b1010001011110000 = some (.ldI 0x2F0) ∧ decode 0xF51E = some (.addI 5) := by decide
theorem test_decode_drw : decode 0b1101000100100101 = some (.drw 1 2 5) := by decide
theorem test_decode_keys : decode 0xE49E = some (.skp 4) ∧ decode 0xE4A1 = some (.sknp 4) ∧
    decode 0xF30A = some (.ldVxK 3) ∧ decode 0xE09F = none ∧ decode 0xE0A2 = none := by decide
theorem test_decode_timers : decode 0xF207 = some (.ldVxDt 2) ∧ decode 0xF215 = some (.ldDtVx 2) ∧
    decode 0xF118 = some (.ldStVx 1) := by decide
theorem test_decode_memory : decode 0xF029 = some (.ldF 0) ∧ decode 0xFA33 = some (.ldB 10) ∧
    decode 0xF255 = some (.storeRegs 2) ∧ decode 0b1111000101100101 = some (.loadRegs 1) := by decide
theorem test_decode_catF_invalid : decode 0xF000 = none ∧ decode 0xF0FF = none ∧ decode 0xFFFF = none := by decide
theorem test_encode_words : encode (.call 0x345) = 0x2345 ∧ encode (.drw 1 2 5) = 0xD125 ∧
    encode (.seReg 1 2 1) = 0x5121 ∧ encode (.shl 10 11) = 0x8ABE ∧ encode (.cls 5) = 0x05E0 ∧
    encode (.ldByte 0 0x42) = 0x6042 ∧ encode (.loadRegs 1) = 0xF165 := by decide
/-- Memory order: the byte at the lower address is bits 15:8 (R58). -/
theorem test_decodeBytes : decodeBytes [0x60, 0x42, 0x99] = .instr (.ldByte 0 0x42) [0x99] ∧
    decodeBytes [0x01, 0x23] = .invalidOpcode 0x0123 ∧ decodeBytes [0x60] = .truncated := by decide
theorem test_decodeTableWord : decodeTableWord 16 0x6042 = some (.ldByte 0 0x42) ∧
    decodeTableWord 16 0xF165 = some (.loadRegs 1) ∧ decodeTableWord 16 0xFFFF = none := by decide

/-! ## Load, arithmetic and logic (section 2.2, E1 to E4) -/

theorem test_ldByte : after (execute 0x6042 State.reset) (fun t => (t.V 0, t.pc)) = some (0x42, 0x200) := by decide
theorem test_ldByte_vf : after (execute 0x6F00 (regs 15 1 0 0)) (fun t => t.V 15) = some 0 := by decide
theorem test_addByte_wraps : after (execute 0x7001 (regs 0 0xFF 15 7)) (fun t => (t.V 0, t.V 15)) = some (0, 7) := by
  decide
theorem test_ldReg : after (execute 0x8010 (regs 1 0x5A 15 3)) (fun t => (t.V 0, t.V 15)) = some (0x5A, 3) := by decide
theorem test_or : after (execute 0x8011 ((regs 0 0x0F 1 0xF0).setVF 2)) (fun t => (t.V 0, t.V 15)) = some (0xFF, 0) := by
  decide
theorem test_and : after (execute 0x8012 (regs 0 0x3C 1 0x0F)) (fun t => (t.V 0, t.V 15)) = some (0x0C, 0) := by decide
theorem test_xor : after (execute 0x8003 (regs 0 0x55 15 9)) (fun t => (t.V 0, t.V 15)) = some (0, 0) := by decide
theorem test_or_vf : after (execute 0x8F11 (regs 15 2 1 1)) (fun t => t.V 15) = some 0 := by decide
theorem test_addReg_carry : after (execute 0x8014 (regs 0 0xFF 1 0x01)) (fun t => (t.V 0, t.V 15)) = some (0, 1) := by
  decide
theorem test_addReg_vf : after (execute 0x8F14 (regs 15 5 1 3)) (fun t => t.V 15) = some 0 := by decide
theorem test_sub_borrow : after (execute 0x8015 (regs 0 5 1 7)) (fun t => (t.V 0, t.V 15)) = some (0xFE, 0) := by decide
theorem test_sub_equal : after (execute 0x8015 (regs 0 5 1 5)) (fun t => (t.V 0, t.V 15)) = some (0, 1) := by decide
theorem test_subn : after (execute 0x8017 (regs 0 5 1 7)) (fun t => (t.V 0, t.V 15)) = some (2, 1) := by decide
theorem test_subn_borrow : after (execute 0x8017 (regs 0 7 1 5)) (fun t => (t.V 0, t.V 15)) = some (0xFE, 0) := by decide
theorem test_shr : after (execute 0x8016 (regs 0 0xAA 1 5)) (fun t => (t.V 0, t.V 1, t.V 15)) = some (2, 5, 1) := by decide
theorem test_shr_vf : after (execute 0x8F16 (regs 1 2 0 0)) (fun t => t.V 15) = some 0 := by decide
theorem test_shl : after (execute 0x801E (regs 0 0 1 0x81)) (fun t => (t.V 0, t.V 15)) = some (2, 1) := by decide
theorem test_shl_no_carry : after (execute 0x801E (regs 0 0 1 0x7F)) (fun t => (t.V 0, t.V 15)) = some (0xFE, 0) := by
  decide

/-! ## Control flow (section 2.3, E5) -/

theorem test_seByte : after (stepWord 0x3210 (regs 2 0x10 0 0)) (·.pc) = some 0x204 ∧
    after (stepWord 0x3210 (regs 2 0x11 0 0)) (·.pc) = some 0x202 := by decide
theorem test_sneByte : after (stepWord 0x4210 (regs 2 0x10 0 0)) (·.pc) = some 0x202 ∧
    after (stepWord 0x4210 (regs 2 0x11 0 0)) (·.pc) = some 0x204 := by decide
theorem test_seReg : after (stepWord 0x5121 (regs 1 0x33 2 0x33)) (·.pc) = some 0x204 ∧
    after (stepWord 0x5120 (regs 1 1 2 2)) (·.pc) = some 0x202 := by decide
theorem test_sneReg : after (stepWord 0x9120 (regs 1 1 2 2)) (·.pc) = some 0x204 ∧
    after (stepWord 0x9110 State.reset) (·.pc) = some 0x202 := by decide
theorem test_jp : after (stepWord 0x1234 State.reset) (·.pc) = some 0x234 ∧
    after (execute 0x1000 State.reset) (·.pc) = some 0xFFFE := by decide
theorem test_call : after (stepWord 0x2300 State.reset) (fun t => (t.stack[0], t.sp, t.pc)) = some (0x200, 1, 0x300) := by
  decide
theorem test_call_overflow : after (stepWord 0x2300 (depth 16)) (fun t => (t.fault, t.sp, t.pc)) =
    some (some (.stackOverflow 0x2300 0x200), 16, 0x200) := by decide
theorem test_ret : after (stepWord 0x00EE ((depth 1).setPc 0x300)) (fun t => (t.sp, t.pc, t.stack[0])) =
    some (0, 0x202, 0x200) := by decide
theorem test_ret_underflow : after (stepWord 0x00EE State.reset) (·.fault) = some (some (.stackUnderflow 0x00EE 0x200)) := by
  decide
theorem test_jpV0 : after (stepWord 0xBFFF (regs 0 0xFF 1 0)) (·.pc) = some 0x10FE := by decide
/-- An odd pc (D5), and the last word of memory. -/
theorem test_fetch_edges : after (stepWord 0x6007 (State.reset.setPc 0x201)) (fun t => (t.V 0, t.pc)) = some (7, 0x203) ∧
    after (stepWord 0x6000 (State.reset.setPc 0xFFE)) (·.pc) = some 0x1000 ∧
    after (step (State.reset.setPc 0xFFF)) (·.fault) = some (some (.fetchOutOfRange 0xFFF)) := by decide
/-- The invalid-opcode vector of section 2.1, and no step after it. -/
theorem test_invalid : after (execute 0x0123 State.reset) (fun t => (t.fault, t.pc)) =
      some (some (.invalidOpcode 0x0123 0x200), 0x200) ∧
    step (State.reset.raise (.invalidOpcode 0x0123 0x200)) =
      .fault (.coreFaulted (.invalidOpcode 0x0123 0x200)) := ⟨by decide, rfl⟩

/-! ## Index and random (section 2.4) -/

theorem test_ldI : after (execute 0xA2F0 State.reset) (·.i) = some 0x02F0 := by decide
theorem test_addI_wraps : after (execute 0xF51E ((regs 5 1 0 0).setI 0xFFFF)) (fun t => (t.i, t.V 15)) = some (0, 0) := by
  decide
/-- Whatever the free byte is. -/
theorem test_rnd_mask_zero : after (execute 0xC300 (regs 3 0x55 0 0)) (fun t => t.V 3) = some 0x00 := by
  exact congrArg some BitVec.and_zero
theorem test_rnd_counts : after (execute 0xC3FF State.reset) (·.draws) = some 1 := by decide

/-! ## Display (section 2.5, E6) -/

theorem test_cls : after (execute 0x00E0 { State.reset with screen := Screen.blank.flip 3 4 })
    (fun t => t.screen.lit 3 4) = some false := by decide
/-- Clipped at the right edge, not wrapped. -/
theorem test_drw_clips : after (execute 0xD011 (atI 0x300 60 0 [0xFF]))
    (fun t => (t.screen.lit 60 0, t.screen.lit 63 0, t.screen.lit 0 0, t.screen.lit 3 0, t.V 15)) =
    some (true, true, false, false, 0) := by decide
/-- VF is cleared before the column register VF is read (D13); a collision; nothing happens out of range. -/
theorem test_drw_flag :
    after (execute 0xDF11 ((atI 0x300 0 2 [0x80]).setVF 5))
      (fun t => (t.screen.lit 0 2, t.screen.lit 5 2, t.V 15)) = some (true, false, 0) ∧
    after (execute 0xD011 { atI 0x300 0 0 [0x80] with screen := Screen.blank.flip 0 0 })
      (fun t => (t.screen.lit 0 0, t.V 15)) = some (false, 1) ∧
    after (execute 0xD012 ((atI 0xFFF 0 0 []).setVF 1)) (fun t => (t.fault, t.V 15)) =
      some (some (.memoryOutOfRange 0xD012 0x200 0x1000), 1) := by decide

/-! ## Keys and timers (section 2.6) -/

theorem test_skp : after (stepWord 0xE49E ((pressed 0xA).setV 4 0x0A)) (·.pc) = some 0x204 ∧
    after (stepWord 0xE49E (regs 4 0x0A 0 0)) (·.pc) = some 0x202 := by decide
theorem test_skp_out_of_range : after (stepWord 0xE49E (regs 4 0x10 0 0)) (·.fault) =
    some (some (.keyOutOfRange 0xE49E 0x200 0x10)) := by decide
theorem test_sknp : after (stepWord 0xE4A1 (regs 4 0x0A 0 0)) (·.pc) = some 0x204 ∧
    after (stepWord 0xE4A1 ((pressed 0xA).setV 4 0x0A)) (·.pc) = some 0x202 := by decide
theorem test_ldVxK_takes : after (stepWord 0xF30A { State.reset with pc := 0x300, released := some 7 })
    (fun t => (t.V 3, t.released, t.pc)) = some (7, none, 0x302) := by decide
theorem test_ldVxK_waits : after (stepWord 0xF30A { State.reset with pc := 0x300 }) (fun t => (t.V 3, t.pc)) =
      some (0, 0x300) ∧
    after (execute 0xF00A { State.reset with pc := 0 }) (·.pc) = some 0xFFFE := by decide
theorem test_released_kept_by_fault : after (execute 0x0000 { State.reset with released := some 2 }) (·.released) =
    some (some 2) := by decide
theorem test_ldVxDt : after (execute 0xF207 { State.reset with dt := 0x3C }) (fun t => t.V 2) = some 0x3C := by decide
theorem test_ldDtVx : after (execute 0xF215 (regs 2 0x3C 0 0)) (·.dt) = some 0x3C := by decide
theorem test_ldStVx : after (execute 0xF118 (regs 1 5 0 0)) (fun t => (t.st, t.dt)) = some (5, 0) := by decide

/-! ## Font, decimal digits, block transfer (section 2.7) -/

theorem test_ldF : after (execute 0xF029 (regs 0 0x1A 1 0)) (·.i) = some 0x003C := by decide
theorem test_ldB : after (execute 0xF033 (atI 0x300 254 0 [])) (fun t => (t.byte 0x300, t.byte 0x301, t.byte 0x302, t.i)) =
    some (2, 5, 4, 0x300) := by decide
theorem test_ldB_out_of_range : after (execute 0xF033 (atI 0xFFE 9 0 [])) (fun t => (t.fault, t.byte 0xFFE)) =
    some (some (.memoryOutOfRange 0xF033 0x200 0x1000), 0) := by decide
theorem test_storeRegs : after (execute 0xF155 (atI 0x400 0x11 0x22 []))
    (fun t => (t.byte 0x400, t.byte 0x401, t.byte 0x402, t.i)) = some (0x11, 0x22, 0, 0x402) := by decide
theorem test_storeRegs_lowest_failing : after (execute 0xF055 (atI 0xFFFF 0 0 [])) (fun t => (t.fault, t.i)) =
    some (some (.memoryOutOfRange 0xF055 0x200 0xFFFF), 0xFFFF) := by decide
theorem test_loadRegs : after (execute 0xF165 ((atI 0x300 0 0 [2, 5, 4]).setV 2 0x77))
    (fun t => (t.V 0, t.V 1, t.V 2, t.i)) = some (2, 5, 0x77, 0x302) := by decide
theorem test_loadRegs_out_of_range : after (execute 0xF065 (atI 0x1000 3 0 [])) (fun t => (t.fault, t.V 0)) =
    some (some (.memoryOutOfRange 0xF065 0x200 0x1000), 3) := by decide

/-! ## Memory, the driver's operations and the host's interface (section 2.8) -/

/-- The first glyph byte of 5 (R53), its padding, and the first byte after the font. -/
theorem test_font : State.reset.byte 0x1E = 0xF0 ∧ State.reset.byte 0x1F = 0x80 ∧ State.reset.byte 0x23 = 0 ∧
    State.reset.byte 0x60 = 0 := by decide
/-- Writing a byte's reset contents back removes its entry. -/
theorem test_canonical : ((State.reset.storeBytes 0x1E [0x11]).storeBytes 0x1E [0xF0]).mem = [] := by decide
theorem test_onTick : after (runCalls [.onTick] { State.reset with dt := 1 }) (fun t => (t.dt, t.st)) = some (0, 0) := by
  decide
theorem test_updateInputs_press : afterCall (call (.updateInputs (pressed 3).keys) State.reset)
    (fun t => (t.keys[3], t.released)) = some ((true, none), .ok) := by decide
theorem test_updateInputs_release : (pressed 3).updateInputs State.reset.keys =
    { State.reset with released := some 3, draws := 1 } := by
  have h : releasedKeys (pressed 3).keys State.reset.keys = [3] := by decide
  simp only [State.updateInputs, h, List.length_cons, List.length_nil, Nat.zero_add, Nat.mod_one]
  rfl
theorem test_loadProgram : afterCall (call (.loadProgram [0x12, 0x00]) State.reset)
    (fun t => (t.byte 0x200, t.byte 0x201, t.pc)) = some ((0x12, 0x00, 0x200), .ok) := by decide
theorem test_accessors : afterCall (call (.register 16) State.reset) (fun _ => ()) = some ((), .outOfRange) ∧
    afterCall (call (.pixel 64 32) { State.reset with screen := Screen.blank.flip 0 0 }) (fun _ => ()) =
      some ((), .bool true) := by decide
/-- The first step after reset runs the word placed by the host (LD V0, 0x42). -/
theorem test_withFetchWord : after (step (State.reset.withFetchWord 16 0x6042)) (fun t => (t.V 0, t.pc)) =
    some (0x42, 0x202) := by decide

/-! ## Witnesses: each statement's hypotheses are met, at the boundary of each clause -/

/-- Of every statement whose only hypothesis is a running core: the result statements without a check, StepRaisesTheListedFault
and ExecuteRunsTheDecodedInstruction among them (DriverCallsKeepTheFaultMark has a marked one beside it),
and the two sides of a mark. -/
theorem witness_running : State.reset.running ∧ ¬ (State.reset.raise (.fetchOutOfRange 0xFFF)).running := by decide
theorem witness_EncodeInvertsDecode : decode 0xFF65 = some (.loadRegs 15) := by decide
theorem witness_DecodeFollowsTheOpcodeMap :
    (⟨0x00E0, 0xF0FF⟩ : OpcodeRow) ∈ opcodeMap ∧ (0x0FE0 : Opcode) &&& 0xF0FF = 0x00E0 := by decide
theorem witness_FieldsAreTheWordsBits : decode 0x5121 = some (.seReg 1 2 1) := by decide
theorem witness_UnexaminedBitsChangeNothing : 0 < (depth 1).sp.val := by decide
/-- StepRunsTheDecodedInstruction: a mark; pc 0xFFF; pc 0xFFE with an invalid and with a valid word. -/
theorem witness_StepRunsTheDecodedInstruction :
    (State.reset.raise (.fetchOutOfRange 0xFFF)).fault = some (.fetchOutOfRange 0xFFF) ∧
    (0xFFE < (State.reset.setPc 0xFFF).pc.toNat ∧ (State.reset.setPc 0xFFF).running) ∧
    ((State.reset.setPc 0xFFE).pc.toNat ≤ 0xFFE ∧ decode 0x0000 = none) ∧
    (let s := (State.reset.setPc 0xFFE).placeWord 0x00E0
     s.running ∧ (0x00E0 : Opcode).toNat = (s.byte 0xFFE).toNat * 256 + (s.byte 0xFFF).toNat ∧
      decode 0x00E0 = some (.cls 0) ∧ ∃ t, exec (.cls 0) s = .next t) :=
  ⟨by decide, by decide, by decide, by decide, by decide, by decide, _, exec_cls _ 0 rfl⟩
theorem witness_ExecuteRunsTheDecodedInstruction : State.reset.running ∧ decode 0x00E0 = some (.cls 0) ∧
    decode 0x00E1 = none := by decide
theorem witness_FaultedCoreHasNoTransition :
    (State.reset.raise (.stackUnderflow 0x00EE 0x200)).fault = some (.stackUnderflow 0x00EE 0x200) := by decide
/-- FaultsArePrecise and SuccessClearsTheReleaseLatch: a faulting and a completing exec, execute and step. -/
theorem witness_operations :
    (∃ t, exec (.ret 0) State.reset = .next t ∧ t.fault = some (.stackUnderflow 0x00EE 0x200)) ∧
    (∃ t, execute 0x0000 State.reset = .next t ∧ t.fault = some (.invalidOpcode 0x0000 0x200)) ∧
    (∃ t, step State.reset = .next t ∧ t.fault = some (.invalidOpcode 0x0000 0x200)) ∧
    (∃ t, exec (.cls 0) State.reset = .next t ∧ t.fault = none) ∧
    (∃ t, execute 0x00E0 State.reset = .next t ∧ t.fault = none) ∧
    (∃ t, step (State.reset.placeWord 0x00E0) = .next t ∧ t.fault = none) :=
  ⟨⟨_, rfl, rfl⟩, ⟨_, rfl, rfl⟩, ⟨_, rfl, rfl⟩, ⟨_, rfl, rfl⟩, ⟨_, rfl, rfl⟩, ⟨_, rfl, rfl⟩⟩
/-- EveryInstructionCompletesOrFaults: the last value that completes and the first that faults, check by check. -/
theorem witness_EveryInstructionCompletesOrFaults :
    instrFault (.call 0) (depth 15) = none ∧
    instrFault (.call 0) (depth 16) = some (.stackOverflow 0x2000 0x200) ∧
    instrFault (.ret 0) (depth 1) = none ∧ instrFault (.ret 0) (depth 0) = some (.stackUnderflow 0x00EE 0x200) ∧
    instrFault (.drw 0 0 15) (State.reset.setI 0xFF1) = none ∧ instrFault (.drw 0 0 0) (State.reset.setI 0xFFFF) = none ∧
    instrFault (.drw 0 0 15) (State.reset.setI 0xFF2) = some (.memoryOutOfRange 0xD00F 0x200 0x1000) ∧
    instrFault (.ldB 0) (State.reset.setI 0xFFD) = none ∧
    instrFault (.ldB 0) (State.reset.setI 0xFFE) = some (.memoryOutOfRange 0xF033 0x200 0x1000) ∧
    instrFault (.storeRegs 15) (State.reset.setI 0xFF0) = none ∧
    instrFault (.storeRegs 15) (State.reset.setI 0xFF1) = some (.memoryOutOfRange 0xFF55 0x200 0x1000) ∧
    instrFault (.loadRegs 0) (State.reset.setI 0xFFF) = none ∧
    instrFault (.loadRegs 0) (State.reset.setI 0x1001) = some (.memoryOutOfRange 0xF065 0x200 0x1001) ∧
    instrFault (.skp 0) (regs 0 0x0F 1 0) = none ∧
    instrFault (.skp 0) (regs 0 0x10 1 0) = some (.keyOutOfRange 0xE09E 0x200 0x10) ∧
    instrFault (.sknp 0) (regs 0 0x0F 1 0) = none ∧
    instrFault (.sknp 0) (regs 0 0xFF 1 0) = some (.keyOutOfRange 0xE0A1 0x200 0xFF) := by decide
/-- PcAfterStepIsAsListed: a completed step of a decoded instruction, here a jump back. -/
theorem witness_PcAfterStepIsAsListed :
    let s := State.reset.placeWord 0x1000
    s.running ∧ decode s.fetchWord = some (.jp 0) ∧ ∃ t, step s = .next t ∧ t.fault = none :=
  ⟨by decide, by decide, _, rfl, rfl⟩
/-- OnlyListedInstructionsWriteVF: a completed exec. -/
theorem witness_OnlyListedInstructionsWriteVF :
    State.reset.running ∧ writesReg (.ldByte 0 1) 1 = false ∧ writesFlag (.ldByte 0 1) = false ∧
      writesFlag (.shr 15 0) = true ∧ ∃ t, exec (.ldByte 0 1) State.reset = .next t ∧ t.fault = none :=
  ⟨by decide, by decide, by decide, by decide, _, exec_ldByte _ 0 1 rfl, rfl⟩
theorem witness_CallPushesItsOwnAddress : ((depth 0).running ∧ (depth 15).sp.val < 16) ∧ (depth 16).sp.val = 16 := by
  decide
theorem witness_RetPopsTheNewestEntry : ((depth 1).running ∧ 0 < (depth 16).sp.val) ∧ (depth 0).sp.val = 0 := by decide
/-- CallsUnwindInReverse: sixteen calls from an empty stack, and none from a full one. -/
theorem witness_CallsUnwindInReverse :
    State.reset.running ∧ State.reset.sp.val + [0x302#12].length + (List.replicate 15 0x304#12).length ≤ 16 ∧
      (depth 16).sp.val + ([] : List Addr).length + ([] : List Addr).length ≤ 16 := by decide
/-- SelfJumpLeavesTheState: at 0x200, and at 0xFFE, the last address. -/
theorem witness_SelfJumpLeavesTheState :
    (let s := State.reset.placeWord 0x1200
     s.running ∧ s.pc.toNat = (0x200 : Addr).toNat ∧ decode s.fetchWord = some (.jp 0x200)) ∧
    (let s := (State.reset.setPc 0xFFE).placeWord 0x1FFE
     s.running ∧ s.pc.toNat = (0xFFE : Addr).toNat ∧ (0xFFE : Addr).toNat ≤ 0xFFE ∧
      decode s.fetchWord = some (.jp 0xFFE)) := by decide
/-- The three statements of DRW: the last row of memory, and no row at all. -/
theorem witness_drw : State.reset.running ∧ (State.reset.setI 0xFF1).i.toNat + (15 : Fin 16).val ≤ 0x1000 ∧
    ((0 : Fin 16).val = 0 ∧ (State.reset.setI 0xFFFF).running) := by decide
/-- DrwFlagIsCollision: a sprite that collides, and one that does not. -/
theorem witness_DrwFlagIsCollision :
    Collides { atI 0x300 0 0 [0x80] with screen := Screen.blank.flip 0 0 } 1 0 0 ∧
    ¬ Collides (atI 0x300 0 0 [0x80]) 1 0 0 := by
  refine ⟨⟨0, 0, by decide, by decide, by decide, by decide⟩, ?_⟩
  rintro ⟨px, py, -, -, -, h⟩
  have : (atI 0x300 0 0 [0x80]).screen.lit px py = false := Screen.lit_blank px py
  rw [this] at h
  cases h
theorem witness_KeySkipsTestTheLatch : ((pressed 15).running ∧ ((regs 0 0x0F 1 0).V 0).toNat ≤ 0xF) ∧
    0xF < ((regs 0 0x10 1 0).V 0).toNat := by decide
theorem witness_WaitForKeyTakesARelease :
    ({ State.reset with released := some 15 } : State).released = some 15 ∧ State.reset.released = none := by decide
theorem witness_WaitingStepChangesNothing :
    let s := (State.reset.setPc 0xFFE).placeWord 0xFF0A
    s.running ∧ s.pc.toNat ≤ 0xFFE ∧ s.released = none ∧ decode s.fetchWord = some (.ldVxK 15) := by decide
/-- SoundTimerIsNeverRead: a next state of exec and of step, of the instruction that writes st and of one that keeps it. -/
theorem witness_SoundTimerIsNeverRead :
    (∃ t, exec (.ldStVx 0) (regs 0 5 1 0) = .next t ∧ t.st ≠ (regs 0 5 1 0).st) ∧
    (∃ t, exec (.cls 0) State.reset = .next t ∧ t.st = State.reset.st) ∧
    (∃ t, step ((regs 0 5 1 0).placeWord 0xF018) = .next t ∧ t.st ≠ (regs 0 5 1 0).st) ∧
    ∃ t, step (State.reset.placeWord 0x00E0) = .next t ∧ t.st = State.reset.st :=
  ⟨⟨_, exec_ldStVx _ 0 rfl, by decide⟩, ⟨_, exec_cls _ 0 rfl, rfl⟩, ⟨_, rfl, by decide⟩, _, rfl, rfl⟩
theorem witness_LdBStoresTheDigits : ((State.reset.setI 0xFFD).running ∧ (State.reset.setI 0xFFD).ea 2 ≤ 0xFFF) ∧
    0xFFF < (State.reset.setI 0xFFE).ea 2 := by decide
/-- Fx55 and Fx65: one register at the last address, and all sixteen in the last sixteen bytes. -/
theorem witness_block_transfer : ((State.reset.setI 0xFFF).running ∧ (State.reset.setI 0xFFF).ea (0 : Reg).val ≤ 0xFFF) ∧
    (State.reset.setI 0xFF0).ea (15 : Reg).val ≤ 0xFFF := by decide
/-- StoredRegistersLoadBack: the state after the store with I put back. -/
theorem witness_StoredRegistersLoadBack :
    (atI 0x300 7 9 []).running ∧
    ∃ t u : State, exec (.storeRegs 1) (atI 0x300 7 9 []) = .next t ∧ t.fault = none ∧ u.running ∧
      u.i = (atI 0x300 7 9 []).i ∧ ∀ a, u.byte a = t.byte a := by
  obtain ⟨t, ht, hf, -⟩ := exec_outcome (.storeRegs 1) (atI 0x300 7 9 []) rfl
  exact ⟨rfl, t, t.setI 0x300, ht, hf, hf, rfl, fun _ => rfl⟩
/-- FontDigitIsDrawn: the reset state, and the farthest place where a glyph fits. -/
theorem witness_FontDigitIsDrawn :
    let s := regs 1 56 2 27
    s.running ∧ (∀ a, a < 96 → s.byte a = resetByte a) ∧ (∀ px py, s.screen.lit px py = false) ∧
      drawCoord s 1 + 8 ≤ 64 ∧ drawCoord s 2 + 5 ≤ 32 :=
  ⟨by decide, fun _ _ => rfl, Screen.lit_blank, by decide, by decide⟩
/-- StoredWordIsFetched: the last pair of sixteen registers and of three digits, at the end of memory, and of the longest
image. -/
theorem witness_StoredWordIsFetched :
    (∃ t, exec (.storeRegs 15) (State.reset.setI 0xFF0) = .next t ∧ t.fault = none) ∧
    ((15 : Reg) ≤ 15 ∧ (15 : Reg).val = (14 : Reg).val + 1) ∧
    (∃ t, exec (.ldB 0) (State.reset.setI 0xFFD) = .next t ∧ t.fault = none) ∧
    3582 + 1 < (List.replicate 3584 (0 : Byte)).length ∧
    ∃ t, State.reset.loadProgram (List.replicate 3584 0) = some t := by
  refine ⟨⟨_, exec_storeRegs _ 15 rfl (by decide), rfl⟩, by decide, ⟨_, exec_ldB _ 0 rfl (by decide), rfl⟩, ?_, ?_⟩
  · rw [List.length_replicate]; omega
  · exact ⟨_, by rw [State.loadProgram_eq, if_pos (by rw [List.length_replicate])]⟩
theorem witness_OnlyListedInstructionsChangeEachPart : ∃ t, exec (.cls 0) State.reset = .next t :=
  ⟨_, exec_cls _ 0 rfl⟩
/-- StepKeepsTheInvariant: a state of no run from reset that meets Inv, its pc at the bound of Inv, and one whose step
completes. -/
theorem witness_StepKeepsTheInvariant :
    Machine.Inv ((depth 16).setPc 0x10FE) ∧ Machine.Inv (depth 1) ∧ ∃ t, step (depth 1) = .next t :=
  ⟨⟨Memory.wf_nil, by decide, by decide⟩, ⟨Memory.wf_nil, by decide, by decide⟩, _, rfl⟩
theorem witness_DriverRunsKeepMemoryCanonical :
    Memory.wf State.reset.mem ∧ ∃ t, runCalls [.loadProgram [0x60], .onTick, .key 15] State.reset = .next t :=
  ⟨State.wf_reset, _, rfl⟩
theorem witness_CanonicalMemoriesReadingAlikeAreEqual : Memory.wf [(0xFFF, 0x01#8)] := by decide
/-- LoadProgramCopiesTheImage: the longest image, and one byte more. -/
theorem witness_LoadProgramCopiesTheImage :
    (List.replicate 3584 (0 : Byte)).length ≤ 3584 ∧ 3584 < (List.replicate 3585 (0 : Byte)).length := by
  rw [List.length_replicate, List.length_replicate]; omega
theorem witness_FirstStepRunsTheImagesFirstWord : (List.replicate 3582 (0 : Byte)).length ≤ 3582 ∧
    decode (BitVec.ofNat 16 ((0x60 : Byte).toNat * 256 + (0x42 : Byte).toNat)) = some (.ldByte 0 0x42) := by
  rw [List.length_replicate]; decide
theorem witness_AccessorsOnlyRead : (15 : Reg).val = 15 ∧ 15 < 16 ∧ 0xFFF ≤ 0xFFF ∧ 0xFFF < 0x1000 := by decide
theorem witness_DriverCallsKeepTheFaultMark :
    DriverOp.onTick ≠ .step ∧ (∀ w, DriverOp.onTick ≠ .execute w) ∧
      (State.reset.raise (.fetchOutOfRange 0xFFF)).fault ≠ none :=
  ⟨by decide, fun _ => by simp, by decide⟩

end Sys2Proof.Tests
end

section
/-! PROOF. What exec and step can answer, said once for all instructions: an effect per instruction behind the check R240
lists for it. -/

namespace Sys2Proof.Machine

/-! ## The effect of each instruction -/

/-- Fx0A's effect: a pending release goes to Vx, otherwise pc is rewound (R202, R207). -/
def State.takeRelease (s : State) (x : Reg) : State :=
  match s.released with
  | some k => s.setV x (BitVec.ofNat 8 k.val)
  | none => s.rewind

/-- DRW's effect: VF cleared, the sprite drawn, VF the collision (R181). -/
def State.drawSprite (s : State) (x y : Reg) (n : Nat) : State :=
  let s0 := s.setVF 0
  let d := Drawing.rows (s0.screen, false) (s0.V x).toNat (s0.V y).toNat (s0.sprite n)
  (s0.setVF (flagByte d.2)).setScreen d.1

/-- What each instruction does where its check passes; `exec_eq` ties it to exec. -/
def effectOf (i : Instr) (s : State) : State :=
  match i with
  | .cls _ => s.setScreen Screen.blank
  | .ret _ => s.popPc
  | .jp nnn => s.transfer nnn.toNat
  | .call nnn => (s.push s.pc).transfer nnn.toNat
  | .seByte x kk => s.skipIf (s.V x == kk)
  | .sneByte x kk => s.skipIf (s.V x != kk)
  | .seReg x y _ => s.skipIf (s.V x == s.V y)
  | .ldByte x kk => s.setV x kk
  | .addByte x kk => s.setV x (s.V x + kk)
  | .ldReg x y => s.setV x (s.V y)
  | .orReg x y => s.setResult x (s.V x ||| s.V y) 0
  | .andReg x y => s.setResult x (s.V x &&& s.V y) 0
  | .xorReg x y => s.setResult x (s.V x ^^^ s.V y) 0
  | .addReg x y => s.setResult x (s.V x + s.V y) (carryFlag (s.V x) (s.V y))
  | .subReg x y => s.setResult x (s.V x - s.V y) (notBorrowFlag (s.V x) (s.V y))
  | .shr x y => s.setResult x (s.V y >>> 1) (shrFlag (s.V y))
  | .subnReg x y => s.setResult x (s.V y - s.V x) (notBorrowFlag (s.V y) (s.V x))
  | .shl x y => s.setResult x (s.V y <<< 1) (shlFlag (s.V y))
  | .sneReg x y _ => s.skipIf (s.V x != s.V y)
  | .ldI nnn => s.setI (nnn.zeroExtend 16)
  | .jpV0 nnn => s.transfer (nnn.toNat + (s.V 0).toNat)
  | .rnd x kk => (s.setV x (s.drawByte &&& kk)).nextDraw
  | .drw x y n => s.drawSprite x y n.val
  | .skp x => s.skipIf (s.keyDown (s.V x).toNat)
  | .sknp x => s.skipIf (!s.keyDown (s.V x).toNat)
  | .ldVxDt x => s.setV x s.dt
  | .ldVxK x => s.takeRelease x
  | .ldDtVx x => s.setDt (s.V x)
  | .ldStVx x => s.setSt (s.V x)
  | .addI x => s.setI (s.i + (s.V x).zeroExtend 16)
  | .ldF x => s.setI (BitVec.ofNat 16 (fontAddress (s.V x)))
  | .ldB x => s.storeBytes (s.ea 0) (bcdDigits (s.V x))
  | .storeRegs x => (s.storeBytes (s.ea 0) (s.regsUpTo x)).setI (BitVec.ofNat 16 (s.ea (x.val + 1)))
  | .loadRegs x => (s.setVUpTo x fun k => s.byte (s.ea k)).setI (BitVec.ofNat 16 (s.ea (x.val + 1)))

/-- Every instruction is its effect behind the check R240 lists for it: `exec_shape` with the effect named. -/
theorem exec_eq (i : Instr) (s : State) : exec i s = conclude s (instrFault i s) (effectOf i) := by
  cases i
  case call nnn => rw [instrFault, ← pushCheck_eq]; rfl
  case ret u => rw [instrFault, ← popCheck_eq]; rfl
  case drw x y n => rw [instrFault, ← memCheck_eq]; rfl
  case ldB x => rw [instrFault, ← memCheck_eq]; rfl
  case storeRegs x => rw [instrFault, ← memCheck_eq]; rfl
  case loadRegs x => rw [instrFault, ← memCheck_eq]; rfl
  case skp x => rw [instrFault, ← keyCheck_eq]; rfl
  case sknp x => rw [instrFault, ← keyCheck_eq]; rfl
  all_goals rfl

/-- All that exec can answer as a next state: the listed fault and nothing else, or the effect and the release latch
cleared (R81, R240, R247). -/
theorem exec_next {i : Instr} {s t : State} :
    exec i s = .next t ↔ s.fault = none ∧
      ((∃ f, instrFault i s = some f ∧ t = s.raise f) ∨
        (instrFault i s = none ∧ t = (effectOf i s).clearReleased)) := by
  rw [exec_eq, conclude_next]

/-- All that step can answer as a next state, in the order of R79: the fetch's fault, the decoder's, or what exec of the
decoded instruction answers, advanced. -/
theorem step_next {s t : State} :
    step s = .next t ↔ s.fault = none ∧
      ((0xFFE < s.pc.toNat ∧ t = s.raise (.fetchOutOfRange s.pc)) ∨
        (s.pc.toNat ≤ 0xFFE ∧ decode s.fetchWord = none ∧ t = s.raise (.invalidOpcode s.fetchWord s.pc)) ∨
        (s.pc.toNat ≤ 0xFFE ∧ ∃ i u, decode s.fetchWord = some i ∧ exec i s = .next u ∧ t = u.advance)) := by
  cases hs : s.fault with
  | some f => simp [step_faulted s f hs]
  | none =>
    rw [step_running s hs]
    by_cases hpc : s.pc.toNat ≤ 0xFFE
    · cases hd : decode s.fetchWord with
      | none => simp [hpc, eq_comm]
      | some i => cases he : exec i s <;> simp [hpc, he, eq_comm]
    · simp [hpc, Nat.lt_of_not_le hpc, eq_comm]

/-! ## What takeRelease and drawSprite leave alone -/

section Frames

variable (s : State) (x y : Reg) (n : Nat)

@[simp] theorem State.takeRelease_i : (s.takeRelease x).i = s.i := by unfold State.takeRelease; split <;> rfl
@[simp] theorem State.takeRelease_stack : (s.takeRelease x).stack = s.stack := by
  unfold State.takeRelease; split <;> rfl
@[simp] theorem State.takeRelease_sp : (s.takeRelease x).sp = s.sp := by unfold State.takeRelease; split <;> rfl
@[simp] theorem State.takeRelease_dt : (s.takeRelease x).dt = s.dt := by unfold State.takeRelease; split <;> rfl
@[simp] theorem State.takeRelease_st : (s.takeRelease x).st = s.st := by unfold State.takeRelease; split <;> rfl
@[simp] theorem State.takeRelease_keys : (s.takeRelease x).keys = s.keys := by unfold State.takeRelease; split <;> rfl
@[simp] theorem State.takeRelease_screen : (s.takeRelease x).screen = s.screen := by
  unfold State.takeRelease; split <;> rfl
@[simp] theorem State.takeRelease_mem : (s.takeRelease x).mem = s.mem := by unfold State.takeRelease; split <;> rfl
@[simp] theorem State.takeRelease_fault : (s.takeRelease x).fault = s.fault := by
  unfold State.takeRelease; split <;> rfl
@[simp] theorem State.takeRelease_draws : (s.takeRelease x).draws = s.draws := by
  unfold State.takeRelease; split <;> rfl

theorem State.V_takeRelease_other {j : Reg} (h : j ≠ x) : (s.takeRelease x).V j = s.V j := by
  unfold State.takeRelease
  split
  · exact s.V_setV_other _ h
  · rfl

/-- Waiting rewinds pc, taking a release keeps it. -/
theorem State.takeRelease_pc : (s.takeRelease x).pc = s.pc ∨ (s.takeRelease x).pc = s.pc - 2 := by
  unfold State.takeRelease
  split
  · exact .inl rfl
  · exact .inr rfl

@[simp] theorem State.drawSprite_i : (s.drawSprite x y n).i = s.i := rfl
@[simp] theorem State.drawSprite_pc : (s.drawSprite x y n).pc = s.pc := rfl
@[simp] theorem State.drawSprite_stack : (s.drawSprite x y n).stack = s.stack := rfl
@[simp] theorem State.drawSprite_sp : (s.drawSprite x y n).sp = s.sp := rfl
@[simp] theorem State.drawSprite_dt : (s.drawSprite x y n).dt = s.dt := rfl
@[simp] theorem State.drawSprite_st : (s.drawSprite x y n).st = s.st := rfl
@[simp] theorem State.drawSprite_keys : (s.drawSprite x y n).keys = s.keys := rfl
@[simp] theorem State.drawSprite_mem : (s.drawSprite x y n).mem = s.mem := rfl
@[simp] theorem State.drawSprite_fault : (s.drawSprite x y n).fault = s.fault := rfl
@[simp] theorem State.drawSprite_draws : (s.drawSprite x y n).draws = s.draws := rfl

theorem State.V_drawSprite_other {j : Reg} (h : j ≠ VF) : (s.drawSprite x y n).V j = s.V j := by
  simp [State.drawSprite, State.V_setVF, h]

/-- DRW's flag is a collision or none. -/
theorem State.V_drawSprite_self : ∃ c, (s.drawSprite x y n).V VF = flagByte c :=
  ⟨_, State.V_setVF_self _ _⟩

end Frames

/-! ## The flag values -/

theorem flagByte_eq_zero_or_one (c : Bool) : flagByte c = 0 ∨ flagByte c = 1 := by
  cases c
  · exact .inl rfl
  · exact .inr rfl

/-- A byte below 2 is a flag's value. -/
theorem byte_eq_zero_or_one {b : Byte} (h : b.toNat < 2) : b = 0 ∨ b = 1 := by bv_omega

theorem shrFlag_eq_zero_or_one (b : Byte) : shrFlag b = 0 ∨ shrFlag b = 1 := by
  apply byte_eq_zero_or_one
  simp only [shrFlag, BitVec.toNat_and]
  exact Nat.lt_succ_of_le Nat.and_le_right

theorem shlFlag_eq_zero_or_one (b : Byte) : shlFlag b = 0 ∨ shlFlag b = 1 := by
  apply byte_eq_zero_or_one
  simp only [shlFlag, BitVec.toNat_ushiftRight, Nat.shiftRight_eq_div_pow]
  omega

/-- Each instruction of R22's table leaves VF 0 or 1. -/
theorem effectOf_flag {i : Instr} (s : State) (h : writesFlag i = true) :
    (effectOf i s).V VF = 0 ∨ (effectOf i s).V VF = 1 := by
  cases i <;> simp only [writesFlag, Bool.false_eq_true] at h
  case drw x y n =>
    obtain ⟨c, hc⟩ := s.V_drawSprite_self x y n.val
    rw [effectOf, hc]
    exact flagByte_eq_zero_or_one c
  all_goals rw [effectOf, State.V_setResult, if_pos rfl]
  case orReg | andReg | xorReg => exact .inl rfl
  case addReg | subReg | subnReg => exact flagByte_eq_zero_or_one _
  case shr x y => exact shrFlag_eq_zero_or_one _
  case shl x y => exact shlFlag_eq_zero_or_one _

/-- No effect changes a register that is neither its destination nor its flag (R22). -/
theorem effectOf_V_other {i : Instr} (s : State) {j : Reg} (hd : writesReg i j = false)
    (hf : j = VF → writesFlag i = false) : (effectOf i s).V j = s.V j := by
  cases i
  case drw x y n => exact s.V_drawSprite_other x y n.val fun hj => by cases hf hj
  case ldVxK x => exact s.V_takeRelease_other x (by simpa [writesReg] using hd)
  case loadRegs x =>
    have hx : ¬ j ≤ x := by simpa [writesReg] using hd
    rw [effectOf, State.V_setI, State.V_setVUpTo, if_neg hx]
  case orReg | andReg | xorReg | addReg | subReg | shr | subnReg | shl =>
    have hv : j ≠ VF := fun hj => by cases hf hj
    have hx := beq_eq_false_iff_ne.1 hd
    rw [effectOf, State.V_setResult, if_neg hv, if_neg hx]
  case ldByte | addByte | ldReg | ldVxDt | rnd => exact s.V_setV_other _ (beq_eq_false_iff_ne.1 hd)
  all_goals simp only [effectOf, State.V_setScreen, State.V_popPc, State.V_transfer, State.V_push, State.V_skipIf,
    State.V_setI, State.V_setDt, State.V_setSt, State.V_storeBytes]

/-- Settles O22: by R22's table for the flag, and instruction by instruction for the other registers. -/
theorem onlyListedInstructionsWriteVF : Obligations.OnlyListedInstructionsWriteVF := by
  intro i s t _ h ht
  obtain ⟨-, ⟨f, -, rfl⟩ | ⟨-, rfl⟩⟩ := exec_next.1 h
  · cases ht
  · exact ⟨effectOf_flag s, fun j hd hf => effectOf_V_other s hd hf⟩

/-! ## Who changes which part -/

section Parts

variable (i : Instr) (s : State)

theorem effectOf_screen :
    (effectOf i s).screen = s.screen ∨ (∃ u, i = .cls u) ∨ ∃ x y n, i = .drw x y n := by
  cases i <;> simp [effectOf]

theorem effectOf_mem : (effectOf i s).mem = s.mem ∨ (∃ x, i = .ldB x) ∨ ∃ x, i = .storeRegs x := by
  cases i <;> simp [effectOf]

theorem effectOf_stack : (effectOf i s).stack = s.stack ∨ ∃ nnn, i = .call nnn := by
  cases i <;> simp [effectOf]

theorem effectOf_sp : (effectOf i s).sp = s.sp ∨ (∃ nnn, i = .call nnn) ∨ ∃ u, i = .ret u := by
  cases i <;> simp [effectOf]

@[simp] theorem effectOf_keys : (effectOf i s).keys = s.keys := by cases i <;> simp [effectOf]

@[simp] theorem effectOf_fault : (effectOf i s).fault = s.fault := by cases i <;> simp [effectOf]

theorem effectOf_dt : (effectOf i s).dt = s.dt ∨ ∃ x, i = .ldDtVx x := by cases i <;> simp [effectOf]

theorem effectOf_st : (effectOf i s).st = s.st ∨ ∃ x, i = .ldStVx x := by cases i <;> simp [effectOf]

theorem effectOf_i :
    (effectOf i s).i = s.i ∨ (∃ nnn, i = .ldI nnn) ∨ (∃ x, i = .addI x) ∨ (∃ x, i = .ldF x) ∨
      (∃ x, i = .storeRegs x) ∨ ∃ x, i = .loadRegs x := by
  cases i <;> simp [effectOf]

theorem effectOf_draws : (effectOf i s).draws = s.draws ∨ ∃ x kk, i = .rnd x kk := by
  cases i <;> simp [effectOf]

end Parts

/-- Settles O48: a fault changes none of the parts, and each effect only the parts listed for it. -/
theorem onlyListedInstructionsChangeEachPart : Obligations.OnlyListedInstructionsChangeEachPart := by
  intro i s t h
  obtain ⟨-, ⟨f, -, rfl⟩ | ⟨-, rfl⟩⟩ := exec_next.1 h
  · exact ⟨.inl rfl, .inl fun _ => rfl, .inl rfl, .inl rfl, rfl, .inl rfl, .inl rfl, .inl rfl, .inl rfl⟩
  · exact ⟨effectOf_screen i s, (effectOf_mem i s).imp_left fun hm a => congrArg (Memory.read · a) hm,
      effectOf_stack i s, effectOf_sp i s, effectOf_keys i s, effectOf_dt i s, effectOf_st i s, effectOf_i i s,
      effectOf_draws i s⟩

/-! ## The sound timer is not read -/

section SoundTimer

variable (s : State) (b : Byte)

theorem State.takeRelease_withSt (x : Reg) :
    ({ s with st := b } : State).takeRelease x = { s.takeRelease x with st := b } := by
  simp only [State.takeRelease]
  split <;> rfl

theorem State.push_withSt (w : Word) : ({ s with st := b } : State).push w = { s.push w with st := b } := by
  simp only [State.push]
  split <;> rfl

theorem State.popPc_withSt : ({ s with st := b } : State).popPc = { s.popPc with st := b } := by
  simp only [State.popPc]
  split <;> rfl

theorem State.advance_withSt : ({ s with st := b } : State).advance = { s.advance with st := b } := by
  simp only [State.advance]
  split <;> rfl

theorem instrFault_withSt (i : Instr) : instrFault i { s with st := b } = instrFault i s := by
  cases i <;> rfl

/-- Every effect but Fx18's carries st along. -/
theorem effectOf_withSt {i : Instr} (hi : ∀ x, i ≠ .ldStVx x) :
    effectOf i { s with st := b } = { effectOf i s with st := b } := by
  cases i
  case ldStVx x => exact absurd rfl (hi x)
  case call nnn => simp only [effectOf, State.push_withSt]; rfl
  case ret u => exact s.popPc_withSt b
  case ldVxK x => exact s.takeRelease_withSt b x
  case seByte | sneByte | seReg | sneReg | skp | sknp => exact s.skipIf_withSt b _
  all_goals rfl

/-- What exec does from another st (R29). -/
theorem exec_withSt {i : Instr} {t : State} (h : exec i s = .next t) :
    (t.st = s.st ∧ ∀ b, exec i { s with st := b } = .next { t with st := b }) ∨
      ∀ b, exec i { s with st := b } = .next t := by
  by_cases hi : ∃ x, i = .ldStVx x
  · obtain ⟨x, rfl⟩ := hi
    have hs := (exec_next.1 h).1
    rw [exec_ldStVx s x hs] at h
    exact .inr fun b => (exec_ldStVx _ x hs).trans h
  · have hne : ∀ x, i ≠ .ldStVx x := fun x hx => hi ⟨x, hx⟩
    refine .inl ⟨?_, fun b => ?_⟩
    · obtain ⟨-, ⟨f, -, rfl⟩ | ⟨-, rfl⟩⟩ := exec_next.1 h
      · rfl
      · exact (effectOf_st i s).resolve_right hi
    · rw [exec_eq] at h ⊢
      exact conclude_withSt b (instrFault_withSt s b i) (effectOf_withSt s b hne) h

/-- What step does from another st (R29). -/
theorem step_withSt {t : State} (h : step s = .next t) :
    (t.st = s.st ∧ ∀ b, step { s with st := b } = .next { t with st := b }) ∨
      ∀ b, step { s with st := b } = .next t := by
  obtain ⟨hs, ⟨hpc, rfl⟩ | ⟨hpc, hd, rfl⟩ | ⟨hpc, i, u, hd, he, rfl⟩⟩ := step_next.1 h
  · exact .inl ⟨rfl, fun b => step_next.2 ⟨hs, .inl ⟨hpc, rfl⟩⟩⟩
  · exact .inl ⟨rfl, fun b => step_next.2 ⟨hs, .inr (.inl ⟨hpc, hd, rfl⟩)⟩⟩
  · obtain ⟨hst, hb⟩ | hb := exec_withSt s he
    · refine .inl ⟨u.advance_st.trans hst, fun b => ?_⟩
      exact step_next.2 ⟨hs, .inr (.inr ⟨hpc, i, _, hd, hb b, (u.advance_withSt b).symm⟩)⟩
    · exact .inr fun b => step_next.2 ⟨hs, .inr (.inr ⟨hpc, i, u, hd, hb b, rfl⟩)⟩

end SoundTimer

/-- Settles O40: neither the check nor, but for the write of Fx18, the effect looks at st. -/
theorem soundTimerIsNeverRead : Obligations.SoundTimerIsNeverRead :=
  fun s _ => ⟨fun _ => exec_withSt s, step_withSt s⟩

/-! ## The invariant -/

section Invariant

variable {i : Instr} {s : State}

/-- An access without a fault lies in memory (R56). -/
theorem access_in_memory {w : Opcode} {n : Nat} (hn : n ≠ 0) (h : accessFault w s n = none) :
    s.ea 0 + n ≤ Config.memSize := by
  simp only [accessFault, ite_eq_right_iff, reduceCtorEq, imp_false, not_and, not_lt] at h
  have := h hn
  simp only [State.ea, Config.memSize]
  omega

/-- Where its check passes, a store writes bytes of memory only, so memory stays canonical. -/
theorem effectOf_keeps_wf (hc : instrFault i s = none) (h : Memory.wf s.mem) : Memory.wf (effectOf i s).mem := by
  obtain hm | ⟨x, rfl⟩ | ⟨x, rfl⟩ := effectOf_mem i s
  · rwa [hm]
  · exact Memory.wf_writeBytes _ _ _ h (access_in_memory (n := 3) (by decide) hc)
  · exact Memory.wf_writeBytes _ _ _ h (by
      rw [State.length_regsUpTo]
      exact access_in_memory (Nat.succ_ne_zero _) hc)

/-- RET takes the newest entry out of use (R145). -/
theorem State.popPc_sp_le (s : State) : s.popPc.sp.val ≤ s.sp.val := by
  unfold State.popPc
  split
  · exact Nat.sub_le _ _
  · exact le_rfl

/-- Only CALL brings an entry into use (R26, R27). -/
theorem effectOf_sp_le (i : Instr) (s : State) :
    (effectOf i s).sp.val ≤ s.sp.val ∨ ∃ nnn, i = .call nnn := by
  obtain h | h | ⟨u, rfl⟩ := effectOf_sp i s
  · exact .inl (by rw [h])
  · exact .inr h
  · exact .inl s.popPc_sp_le

/-- Every stack entry in use is the address of a word that a step can fetch (R26, R60). -/
def LiveEntriesFetchable (s : State) : Prop :=
  ∀ j : Fin 16, j.val < s.sp.val → s.stack[j.val].toNat ≤ 0xFFE

/-- A push of a fetchable address with room on the stack. -/
theorem State.push_liveEntries {w : Word} (hsp : s.sp.val < 16) (hw : w.toNat ≤ 0xFFE)
    (h : LiveEntriesFetchable s) : LiveEntriesFetchable (s.push w) := by
  intro j hj
  simp only [s.push_eq w hsp] at hj ⊢
  rw [Vector.getElem_set]
  split
  · exact hw
  · exact h j (by omega)

/-- The entry a CALL pushes is its own, fetched address; no other effect writes an entry or brings one into use. -/
theorem effectOf_keeps_liveEntries (hc : instrFault i s = none) (hpc : s.pc.toNat ≤ 0xFFE)
    (h : LiveEntriesFetchable s) : LiveEntriesFetchable (effectOf i s) := by
  by_cases hi : ∃ nnn, i = .call nnn
  · obtain ⟨nnn, rfl⟩ := hi
    have hsp : s.sp.val < 16 := by
      have hne : s.sp.val ≠ 16 := by simpa [instrFault] using hc
      omega
    exact State.push_liveEntries hsp hpc h
  · intro j hj
    simp only [(effectOf_stack i s).resolve_right hi]
    exact h j (hj.trans_le ((effectOf_sp_le i s).resolve_right hi))

/-- A skip goes to P + 2 or P + 4 (R80). -/
theorem State.skipIf_pc_bound (c : Bool) (hpc : s.pc.toNat ≤ 0xFFE) :
    ((s.skipIf c).pc + 2).toNat ≤ 0x10FE := by
  rw [State.skipIf_pc]
  split <;> bv_omega

/-- The advance after a transfer reaches its target (R149). -/
theorem State.transfer_pc_bound {target : Nat} (h : target ≤ 0x10FE) :
    ((s.transfer target).pc + 2).toNat ≤ 0x10FE := by
  rw [State.transfer_pc, BitVec.sub_add_cancel, BitVec.toNat_ofNat]
  exact (Nat.mod_le _ _).trans h

/-- RET goes on after a CALL that was fetched (R145). -/
theorem State.popPc_pc_bound (hsp : 0 < s.sp.val) (h : LiveEntriesFetchable s) :
    (s.popPc.pc + 2).toNat ≤ 0x10FE := by
  have htop := h ⟨s.sp.val - 1, by omega⟩ (Nat.sub_lt hsp Nat.one_pos)
  rw [s.popPc_eq hsp]
  bv_omega

/-- Fx0A goes on, or runs again (R207). -/
theorem State.takeRelease_pc_bound (x : Reg) (hpc : s.pc.toNat ≤ 0xFFE) :
    ((s.takeRelease x).pc + 2).toNat ≤ 0x10FE := by
  obtain h | h := s.takeRelease_pc x
  · rw [h]; bv_omega
  · rw [h, BitVec.sub_add_cancel]; omega

/-- By the table of R80, the pc after the advance; Bnnn reaches farthest, to 0xFFF + 0xFF (R147). -/
theorem effectOf_pc_bound (hc : instrFault i s = none) (hpc : s.pc.toNat ≤ 0xFFE) (h : LiveEntriesFetchable s) :
    ((effectOf i s).pc + 2).toNat ≤ 0x10FE := by
  cases i
  case seByte | sneByte | seReg | sneReg | skp | sknp => exact State.skipIf_pc_bound _ hpc
  case jp nnn => exact State.transfer_pc_bound (by omega)
  case call nnn => exact State.transfer_pc_bound (s := s.push s.pc) (by omega)
  case jpV0 nnn => exact State.transfer_pc_bound (by omega)
  case ret u =>
    have hne : s.sp.val ≠ 0 := by simpa [instrFault] using hc
    exact State.popPc_pc_bound (Nat.pos_of_ne_zero hne) h
  case ldVxK x => exact State.takeRelease_pc_bound x hpc
  all_goals
    have hsame : (s.pc + 2).toNat ≤ 0x10FE := by bv_omega
    exact hsame

/-- A fault touches nothing the invariant speaks of (R247). -/
theorem Inv.raise (f : CoreFault) (h : Inv s) : Inv (s.raise f) := ⟨h.memWf, h.pcBound, h.liveEntries⟩

/-- An instruction fetched in range and completing, with the advance after it (R79). -/
theorem Inv.advance_effectOf (hs : s.fault = none) (hpc : s.pc.toNat ≤ 0xFFE) (hc : instrFault i s = none)
    (h : Inv s) : Inv (effectOf i s).clearReleased.advance where
  memWf := by simpa using effectOf_keeps_wf hc h.memWf
  pcBound := by simpa [hs] using effectOf_pc_bound hc hpc h.liveEntries
  liveEntries := by simpa [LiveEntriesFetchable] using effectOf_keeps_liveEntries hc hpc h.liveEntries

end Invariant

/-- Settles O49: a fault touches nothing the invariant speaks of, and where the check passes the effect and the advance
keep each of its three parts. -/
theorem stepKeepsTheInvariant : Obligations.StepKeepsTheInvariant := by
  intro s t hinv h
  obtain ⟨hs, ⟨-, rfl⟩ | ⟨-, -, rfl⟩ | ⟨hpc, i, u, -, he, rfl⟩⟩ := step_next.1 h
  · exact hinv.raise _
  · exact hinv.raise _
  · obtain ⟨-, ⟨f, -, rfl⟩ | ⟨hc, rfl⟩⟩ := exec_next.1 he
    · exact hinv.raise f
    · exact hinv.advance_effectOf hs hpc hc

end Sys2Proof.Machine
end

section
/-! PROOF. Memory as the spec speaks of it: a canonical list is determined by its bytes (R50), and a fetch sees the bytes
last stored (R63). -/

namespace Sys2Proof.Machine

/-! ## A canonical memory is determined by what it reads -/

/-- The entries of a canonical memory are exactly the bytes in range that differ from their reset contents. -/
theorem Memory.mem_iff_read {m : Memory} (h : Memory.wf m) (c : Host.Cell) :
    c ∈ m ↔ c.1 < Config.memSize ∧ Memory.read m c.1 = c.2 ∧ c.2 ≠ resetByte c.1 := by
  constructor
  · intro hc
    exact ⟨(h.2 c hc).1, m.read_of_mem h c hc, (h.2 c hc).2⟩
  · rintro ⟨-, hread, hne⟩
    by_cases hd : ∃ d ∈ m, d.1 = c.1
    · obtain ⟨d, hdm, hda⟩ := hd
      have hdb : d.2 = c.2 := by rw [← m.read_of_mem h d hdm, hda, hread]
      exact Prod.ext hda hdb ▸ hdm
    · have hreset := m.read_of_not_mem c.1 fun d hdm hda => hd ⟨d, hdm, hda⟩
      exact absurd (hread.symm.trans hreset) hne

/-- Strictly rising addresses: two such lists with the same entries are the same list. -/
theorem Memory.eq_of_mem_iff {m m' : Memory} (h : m.Pairwise fun c d => c.1 < d.1)
    (h' : m'.Pairwise fun c d => c.1 < d.1) (hmem : ∀ c, c ∈ m ↔ c ∈ m') : m = m' := by
  have nodup {l : Memory} (hl : l.Pairwise fun c d => c.1 < d.1) : l.Nodup :=
    hl.imp fun hlt heq => hlt.ne (congrArg Prod.fst heq)
  have hperm : m.Perm m' := (List.perm_ext_iff_of_nodup (nodup h) (nodup h')).2 hmem
  exact hperm.eq_of_pairwise (fun _ _ _ _ hlt hgt => absurd hgt hlt.asymm) h h'

/-- Settles O52: reading alike at every address, the two lists have the same entries, and each list has them in order. -/
theorem canonicalMemoriesReadingAlikeAreEqual : Obligations.CanonicalMemoriesReadingAlikeAreEqual := by
  intro m m' h h' hread
  refine Memory.eq_of_mem_iff h.1 h'.1 fun c => ?_
  rw [Memory.mem_iff_read h, Memory.mem_iff_read h']
  exact and_congr_right fun hc => by rw [hread c.1 hc]

/-! ## A store is seen by the next fetch -/

section Fetch

variable {i : Instr} {s t : State}

/-- An instruction that completes has passed its check and answers its effect, the release latch cleared (R81). -/
theorem exec_completes_eq (h : exec i s = .next t) (ht : t.fault = none) :
    instrFault i s = none ∧ t = (effectOf i s).clearReleased := by
  obtain ⟨-, ⟨f, -, rfl⟩ | hc⟩ := exec_next.1 h
  · cases ht
  · exact hc

/-- A byte of a store reads back at its place. -/
theorem State.byte_storeBytes_at (s : State) (a k : Nat) {bs : List Byte} {b : Byte} (hb : bs[k]? = some b) :
    (s.storeBytes a bs).byte (a + k) = b := by
  rw [State.byte_storeBytes, if_pos (Nat.le_add_right a k), Nat.add_sub_cancel_left, hb]
  rfl

/-- Two adjacent bytes of a store into memory are the word fetched where they stand, the first one high (R58, R63). The
state may differ from the one the store left in all but its bytes. -/
theorem State.toNat_fetchWord_of_stored {a k : Nat} {bs : List Byte} {hi lo : Byte}
    (ht : ∀ n, t.byte n = (s.storeBytes a bs).byte n) (ha : a + bs.length ≤ Config.memSize)
    (hhi : bs[k]? = some hi) (hlo : bs[k + 1]? = some lo) :
    (t.setPc (BitVec.ofNat 16 (a + k))).fetchWord.toNat = hi.toNat * 256 + lo.toNat := by
  have hpc : a + k < 65536 := by
    obtain ⟨hk, -⟩ := List.getElem?_eq_some_iff.1 hlo
    simp only [Config.memSize] at ha
    omega
  rw [State.toNat_fetchWord_setPc _ _ hpc, ht, ht, Nat.add_assoc, s.byte_storeBytes_at a k hhi,
    s.byte_storeBytes_at a (k + 1) hlo]

/-- After Fx55, two adjacent registers are the word where they stand (R222). -/
theorem storeRegs_fetched {x j k : Reg} (h : exec (.storeRegs x) s = .next t) (ht : t.fault = none) (hkx : k ≤ x)
    (hkj : k.val = j.val + 1) :
    (t.setPc (BitVec.ofNat 16 (s.ea j.val))).fetchWord.toNat = (s.V j).toNat * 256 + (s.V k).toNat := by
  obtain ⟨hc, rfl⟩ := exec_completes_eq h ht
  have hjx : j ≤ x := (Fin.le_def.2 (by omega) : j ≤ k).trans hkx
  refine State.toNat_fetchWord_of_stored (s := s) (a := s.ea 0) (bs := s.regsUpTo x) (fun _ => rfl) ?_ ?_ ?_
  · rw [State.length_regsUpTo]
    exact access_in_memory (Nat.succ_ne_zero _) hc
  · rw [State.getElem?_regsUpTo, if_pos hjx]
  · rw [← hkj, State.getElem?_regsUpTo, if_pos hkx]

/-- After Fx33, two adjacent digits are the word where they stand (R221). -/
theorem ldB_fetched {x : Reg} (h : exec (.ldB x) s = .next t) (ht : t.fault = none) (k : Nat) {hi lo : Byte}
    (hhi : (bcdDigits (s.V x))[k]? = some hi) (hlo : (bcdDigits (s.V x))[k + 1]? = some lo) :
    (t.setPc (BitVec.ofNat 16 (s.ea k))).fetchWord.toNat = hi.toNat * 256 + lo.toNat := by
  obtain ⟨hc, rfl⟩ := exec_completes_eq h ht
  have hin := access_in_memory (n := 3) (by decide) hc
  exact State.toNat_fetchWord_of_stored (s := s) (fun _ => rfl) hin hhi hlo

/-- After a load_program that was not refused, two adjacent bytes of the image are the word where they stand (R282). -/
theorem loadProgram_fetched {bytes : List Byte} {j : Nat} (hj : j + 1 < bytes.length)
    (h : s.loadProgram bytes = some t) :
    (t.setPc (BitVec.ofNat 16 (0x200 + j))).fetchWord.toNat = bytes[j].toNat * 256 + bytes[j + 1].toNat := by
  rw [State.loadProgram_eq] at h
  obtain ⟨hlen, ht⟩ := Option.ite_none_right_eq_some.1 h
  cases ht
  have hin : 0x200 + bytes.length ≤ Config.memSize := Nat.add_le_add_left hlen 0x200
  exact State.toNat_fetchWord_of_stored (fun _ => rfl) hin (List.getElem?_eq_getElem _) (List.getElem?_eq_getElem hj)

end Fetch

/-- Settles O47: each of the three stores writes its bytes inside memory, and two adjacent bytes of a store are the word
fetched where they stand. -/
theorem storedWordIsFetched : Obligations.StoredWordIsFetched := by
  intro s t
  refine ⟨fun x j k => storeRegs_fetched, fun x h ht => ?_, fun bytes j => loadProgram_fetched⟩
  have hb := (s.V x).isLt
  constructor
  · rw [ldB_fetched h ht 0 rfl rfl]
    simp only [BitVec.toNat_ofNat]
    omega
  · rw [ldB_fetched h ht 1 rfl rfl]
    simp only [BitVec.toNat_ofNat]
    omega

end Sys2Proof.Machine
end

section
/-! PROOF. The encoding: each instruction is one word and each valid word one instruction (R71, R72), the decoder is the
opcode map (R84), and the invalid words are those of R77. -/

namespace Sys2Proof

variable {w v : Opcode} {c : Nibble} {i : Instr}

/-! ## Encode, then decode -/

/-- Settles O1: the fields of the word read back the category, the function bits and the operands it was put together
from. -/
theorem decodeInvertsEncode : Obligations.DecodeInvertsEncode := by
  intro i
  cases i
  case cls | ret => simp [encode, decode, decodeCat0]
  case ldReg | orReg | andReg | xorReg | addReg | subReg | shr | subnReg | shl => simp [encode, decode, decodeCat8]
  case skp | sknp => simp [encode, decode, decodeCatE]
  case ldVxDt | ldVxK | ldDtVx | ldStVx | addI | ldF | ldB | storeRegs | loadRegs => simp [encode, decode, decodeCatF]
  all_goals simp [encode, decode]

/-! ## Decode, then encode -/

/-- A word is its category with its address field (R72, format N). -/
theorem formN_eq_word (hc : (category w).toNat = c.toNat) : formN c (fieldNnn w) = w := by
  rw [← BitVec.eq_of_toNat_eq hc, formN_fields]

/-- A word is its category, its x and its low byte (R72, formats XKK and XF). -/
theorem formXKK_eq_word {kk : Byte} (hc : (category w).toNat = c.toNat) (hk : (fieldKk w).toNat = kk.toNat) :
    formXKK c (fieldX w) kk = w := by
  rw [← BitVec.eq_of_toNat_eq hc, ← BitVec.eq_of_toNat_eq hk, formXKK_fields]

/-- A word is its category, its x, its y and its low nibble (R72, format XYN). -/
theorem formXYN_eq_word {n : Nibble} (hc : (category w).toNat = c.toNat) (hn : (bits3to0 w).toNat = n.toNat) :
    formXYN c (fieldX w) (fieldY w) n = w := by
  rw [← BitVec.eq_of_toNat_eq hc, ← BitVec.eq_of_toNat_eq hn, formXYN_fields]

/-- A word of category 0 is its unexamined nibble and its low byte (R72, format Z; R76). -/
theorem formZ_eq_word {kk : Byte} (hc : (category w).toNat = 0) (hk : (fieldKk w).toNat = kk.toNat) :
    formZ (bits11to8 w) kk = w := by
  rw [← BitVec.eq_of_toNat_eq hk, formZ_fields w (BitVec.eq_of_toNat_eq hc)]

theorem encode_of_decodeCat0 (hc : (category w).toNat = 0x0) (h : decodeCat0 w = some i) : encode i = w := by
  unfold decodeCat0 at h
  split at h <;> cases h
  all_goals
    rename_i hk
    exact formZ_eq_word hc hk

theorem encode_of_decodeCat8 (hc : (category w).toNat = 0x8) (h : decodeCat8 w = some i) : encode i = w := by
  unfold decodeCat8 at h
  split at h <;> cases h
  all_goals
    rename_i hn
    exact formXYN_eq_word hc hn

theorem encode_of_decodeCatE (hc : (category w).toNat = 0xE) (h : decodeCatE w = some i) : encode i = w := by
  unfold decodeCatE at h
  split at h <;> cases h
  all_goals
    rename_i hk
    exact formXKK_eq_word hc hk

theorem encode_of_decodeCatF (hc : (category w).toNat = 0xF) (h : decodeCatF w = some i) : encode i = w := by
  unfold decodeCatF at h
  split at h <;> cases h
  all_goals
    rename_i hk
    exact formXKK_eq_word hc hk

/-- Settles O2: in each branch of the decoder the fields make up the word again. -/
theorem encodeInvertsDecode : Obligations.EncodeInvertsDecode := by
  intro w i h
  unfold decode at h
  split at h
  case h_1 hc => exact encode_of_decodeCat0 hc h
  case h_9 hc => exact encode_of_decodeCat8 hc h
  case h_15 hc => exact encode_of_decodeCatE hc h
  case h_16 hc => exact encode_of_decodeCatF hc h
  all_goals cases h
  case h_2 hc | h_3 hc | h_11 hc | h_12 hc => exact formN_eq_word hc
  case h_4 hc | h_5 hc | h_7 hc | h_8 hc | h_13 hc => exact formXKK_eq_word hc rfl
  case h_6 hc | h_10 hc | h_14 hc => exact formXYN_eq_word hc rfl

/-! ## The opcode map -/

/-- Every instruction's row is in the map and its word matches it (R84): the family EncodesInRow, put together. -/
theorem encode_matches_row : ∀ i, Laws.EncodesInRow.Statement i
  | .cls u => Laws.EncodesInRow.cls u
  | .ret u => Laws.EncodesInRow.ret u
  | .jp nnn => Laws.EncodesInRow.jp nnn
  | .call nnn => Laws.EncodesInRow.call nnn
  | .seByte x kk => Laws.EncodesInRow.seByte x kk
  | .sneByte x kk => Laws.EncodesInRow.sneByte x kk
  | .seReg x y u => Laws.EncodesInRow.seReg u x y
  | .ldByte x kk => Laws.EncodesInRow.ldByte x kk
  | .addByte x kk => Laws.EncodesInRow.addByte x kk
  | .ldReg x y => Laws.EncodesInRow.ldReg x y
  | .orReg x y => Laws.EncodesInRow.orReg x y
  | .andReg x y => Laws.EncodesInRow.andReg x y
  | .xorReg x y => Laws.EncodesInRow.xorReg x y
  | .addReg x y => Laws.EncodesInRow.addReg x y
  | .subReg x y => Laws.EncodesInRow.subReg x y
  | .shr x y => Laws.EncodesInRow.shr x y
  | .subnReg x y => Laws.EncodesInRow.subnReg x y
  | .shl x y => Laws.EncodesInRow.shl x y
  | .sneReg x y u => Laws.EncodesInRow.sneReg u x y
  | .ldI nnn => Laws.EncodesInRow.ldI nnn
  | .jpV0 nnn => Laws.EncodesInRow.jpV0 nnn
  | .rnd x kk => Laws.EncodesInRow.rnd x kk
  | .drw x y n => Laws.EncodesInRow.drw x y n
  | .skp x => Laws.EncodesInRow.skp x
  | .sknp x => Laws.EncodesInRow.sknp x
  | .ldVxDt x => Laws.EncodesInRow.ldVxDt x
  | .ldVxK x => Laws.EncodesInRow.ldVxK x
  | .ldDtVx x => Laws.EncodesInRow.ldDtVx x
  | .ldStVx x => Laws.EncodesInRow.ldStVx x
  | .addI x => Laws.EncodesInRow.addI x
  | .ldF x => Laws.EncodesInRow.ldF x
  | .ldB x => Laws.EncodesInRow.ldB x
  | .storeRegs x => Laws.EncodesInRow.storeRegs x
  | .loadRegs x => Laws.EncodesInRow.loadRegs x

/-- The mask of a row without a function field keeps the category. -/
theorem category_of_mask (h : w &&& 0xF000 = v) : category w = category v := by
  rw [← h, ← formN_fields w, mask_category_formN, category_formN, category_formN]

/-- The mask of a row with a function nibble keeps the category and that nibble. -/
theorem nibble_of_mask (h : w &&& 0xF00F = v) : category w = category v ∧ bits3to0 w = bits3to0 v := by
  rw [← h, ← formXYN_fields w, mask_nibble_formXYN]
  simp

/-- The mask of a row with a function byte keeps the category and that byte. -/
theorem function_of_mask (h : w &&& 0xF0FF = v) : category w = category v ∧ fieldKk w = fieldKk v := by
  rw [← h, ← formXKK_fields w, mask_function_formXKK]
  simp

/-- A word that matches a row of the map decodes to an instruction of that row: the bits under the mask are those the
decoder looks at. -/
theorem decode_of_matches {r : OpcodeRow} (hr : r ∈ opcodeMap) (h : w &&& r.mask = r.value) :
    (decode w).map Instr.row = some r := by
  simp only [opcodeMap, List.mem_append, List.mem_cons, List.not_mem_nil, or_false] at hr
  obtain (((((hr | hr) | hr) | hr) | hr) | hr) := hr
  · rcases hr with rfl | rfl <;>
    · obtain ⟨hc, hk⟩ := function_of_mask h
      simp only [decode, decodeCat0, hc, hk]
      rfl
  · rcases hr with rfl | rfl | rfl | rfl | rfl | rfl | rfl <;>
    · simp only [decode, category_of_mask h]
      rfl
  · rcases hr with rfl | rfl | rfl | rfl | rfl | rfl | rfl | rfl | rfl <;>
    · obtain ⟨hc, hn⟩ := nibble_of_mask h
      simp only [decode, decodeCat8, hc, hn]
      rfl
  · rcases hr with rfl | rfl | rfl | rfl | rfl <;>
    · simp only [decode, category_of_mask h]
      rfl
  · rcases hr with rfl | rfl <;>
    · obtain ⟨hc, hk⟩ := function_of_mask h
      simp only [decode, decodeCatE, hc, hk]
      rfl
  · rcases hr with rfl | rfl | rfl | rfl | rfl | rfl | rfl | rfl | rfl <;>
    · obtain ⟨hc, hk⟩ := function_of_mask h
      simp only [decode, decodeCatF, hc, hk]
      rfl

/-- Settles O3: an instruction's word matches its own row, and a word that matches a row decodes to an instruction of
that row; so two rows that one word matches are the row of the one instruction it decodes to. -/
theorem decodeFollowsTheOpcodeMap : Obligations.DecodeFollowsTheOpcodeMap := by
  refine ⟨rfl, fun w r => ⟨?_, fun ⟨hr, h⟩ => ?_⟩, fun w r r' hr hr' h h' => ?_⟩
  · rintro ⟨i, hi, rfl⟩
    rw [← encodeInvertsDecode w i hi]
    exact encode_matches_row i
  · exact Option.map_eq_some_iff.1 (decode_of_matches hr h)
  · exact Option.some_inj.1 ((decode_of_matches hr h).symm.trans (decode_of_matches hr' h'))

/-! ## The fields as numbers of the word -/

/-- A field of a word, as a number: shifted right and cut to its width (R71). -/
theorem toNat_extract (w : Opcode) (start len : Nat) :
    (w.extractLsb' start len).toNat = w.toNat / 2 ^ start % 2 ^ len := by
  rw [BitVec.extractLsb'_toNat, Nat.shiftRight_eq_div_pow]

theorem toNat_category (w : Opcode) : (category w).toNat = w.toNat / 4096 := by
  rw [category, toNat_extract]
  omega

theorem val_fieldX (w : Opcode) : (fieldX w).val = w.toNat / 256 % 16 := toNat_extract w 8 4

theorem val_fieldY (w : Opcode) : (fieldY w).val = w.toNat / 16 % 16 := toNat_extract w 4 4

theorem toNat_fieldKk (w : Opcode) : (fieldKk w).toNat = w.toNat % 256 := by
  rw [fieldKk, toNat_extract]
  omega

theorem toNat_fieldNnn (w : Opcode) : (fieldNnn w).toNat = w.toNat % 4096 := by
  rw [fieldNnn, toNat_extract]
  omega

theorem toNat_bits3to0 (w : Opcode) : (bits3to0 w).toNat = w.toNat % 16 := by
  rw [bits3to0, toNat_extract]
  omega

theorem val_fieldN (w : Opcode) : (fieldN w).val = w.toNat % 16 := toNat_bits3to0 w

/-- An instruction's operands are the fields of its own word. -/
theorem operandsAreFields_encode (i : Instr) : Machine.OperandsAreFields (encode i).toNat i := by
  cases i <;>
    simp [Machine.OperandsAreFields, encode, ← val_fieldX, ← val_fieldY, ← toNat_fieldKk, ← toNat_fieldNnn,
      ← val_fieldN]

/-- Settles O4: the word is the one the decoded instruction encodes to, so its operands are the word's fields. -/
theorem fieldsAreTheWordsBits : Obligations.FieldsAreTheWordsBits := by
  intro w
  refine ⟨toNat_category w, val_fieldX w, val_fieldY w, toNat_fieldKk w, toNat_fieldNnn w, val_fieldN w,
    fun i hi => ?_⟩
  rw [← encodeInvertsDecode w i hi]
  exact operandsAreFields_encode i

/-! ## The invalid words -/

theorem decodeCat0_eq_none : decodeCat0 w = none ↔ (fieldKk w).toNat ∉ [0xE0, 0xEE] := by
  unfold decodeCat0
  split <;> simp_all

theorem decodeCat8_eq_none :
    decodeCat8 w = none ↔ (bits3to0 w).toNat ∈ [0x8, 0x9, 0xA, 0xB, 0xC, 0xD, 0xF] := by
  have hn := (bits3to0 w).isLt
  unfold decodeCat8
  split
  case h_10 =>
    simp only [imp_false, List.mem_cons, List.not_mem_nil, or_false, true_iff] at *
    omega
  all_goals simp_all

theorem decodeCatE_eq_none : decodeCatE w = none ↔ (fieldKk w).toNat ∉ [0x9E, 0xA1] := by
  unfold decodeCatE
  split <;> simp_all

theorem decodeCatF_eq_none :
    decodeCatF w = none ↔ (fieldKk w).toNat ∉ [0x07, 0x0A, 0x15, 0x18, 0x1E, 0x29, 0x33, 0x55, 0x65] := by
  unfold decodeCatF
  split <;> simp_all

/-- Only the four categories that dispatch further have invalid words (R73, R74). -/
theorem decode_eq_none :
    decode w = none ↔
      ((category w).toNat = 0x0 ∧ decodeCat0 w = none) ∨ ((category w).toNat = 0x8 ∧ decodeCat8 w = none) ∨
      ((category w).toNat = 0xE ∧ decodeCatE w = none) ∨ ((category w).toNat = 0xF ∧ decodeCatF w = none) := by
  have hc := (category w).isLt
  unfold decode
  split
  case h_17 =>
    simp only [imp_false] at *
    omega
  all_goals simp_all

/-- Settles O5: the invalid words of each of the four categories, the fields taken as numbers of the word. -/
theorem invalidWordsAreThoseListed : Obligations.InvalidWordsAreThoseListed := by
  intro w
  rw [decode_eq_none, decodeCat0_eq_none, decodeCat8_eq_none, decodeCatE_eq_none, decodeCatF_eq_none, toNat_category,
    toNat_fieldKk, toNat_bits3to0]

/-- Settles O7: the decoder evaluated on each word. -/
theorem sampleWordsDecode : Obligations.SampleWordsDecode := by
  unfold Obligations.SampleWordsDecode
  decide

end Sys2Proof
end

section
/-! PROOF. The instruction cycle: what step and execute run (R78, R79), the pc after a step (R80), the release latch
(R81) and the bits that nothing reads (R75, R76). -/

namespace Sys2Proof.Machine

/-! ## The unexamined bits -/

/-- RET with an entry in use does the same for every value of w[11:8]: only its fault would show them. -/
theorem exec_ret_unexamined {s : State} (u u' : Nibble) (hsp : 0 < s.sp.val) :
    exec (.ret u) s = exec (.ret u') s := by
  have hcheck (u : Nibble) : instrFault (.ret u) s = none := if_neg hsp.ne'
  rw [exec_eq, exec_eq, hcheck, hcheck]
  rfl

/-- Settles O6: the meanings of 5xyN, 9xyN and CLS do not have the bits, and RET's does not where its check passes. -/
theorem unexaminedBitsChangeNothing : Obligations.UnexaminedBitsChangeNothing :=
  fun _ _ _ u => ⟨rfl, rfl, rfl, exec_ret_unexamined u 0⟩

/-! ## What step and execute run -/

/-- The advance adds 2 where no fault is marked (R79). -/
theorem State.advance_eq (t : State) : t.advance = if t.fault = none then { t with pc := t.pc + 2 } else t := by
  cases h : t.fault <;> simp [State.advance, State.setPc, h]

/-- The big-endian word of the two bytes at pc is the word fetched (R58). -/
theorem State.eq_fetchWord {s : State} {w : Opcode}
    (hw : w.toNat = (s.byte s.pc.toNat).toNat * 256 + (s.byte (s.pc.toNat + 1)).toNat) : w = s.fetchWord :=
  BitVec.eq_of_toNat_eq (hw.trans s.toNat_fetchWord.symm)

/-- Settles O8: the three outcomes of `step_next`, each from its own condition. -/
theorem stepRunsTheDecodedInstruction : Obligations.StepRunsTheDecodedInstruction := by
  intro s
  refine ⟨step_faulted s, fun hs hpc => step_next.2 ⟨hs, .inl ⟨hpc, rfl⟩⟩, fun hs hpc w hw => ?_⟩
  obtain rfl := State.eq_fetchWord hw
  refine ⟨fun hd => step_next.2 ⟨hs, .inr (.inl ⟨hpc, hd, rfl⟩)⟩, fun i t hd he => ?_⟩
  rw [← t.advance_eq]
  exact step_next.2 ⟨hs, .inr (.inr ⟨hpc, i, t, hd, he, rfl⟩)⟩

/-- Settles O9: the two branches of the decoder's answer. -/
theorem executeRunsTheDecodedInstruction : Obligations.ExecuteRunsTheDecodedInstruction := by
  intro s w hs
  rw [execute_running w s hs]
  exact ⟨fun i hd => by rw [hd], fun hd => by rw [hd]; rfl⟩

/-! ## The release latch -/

/-- From s to t, a success has cleared the release latch and a fault has kept it (R81). -/
def LatchRule (s t : State) : Prop :=
  (t.fault = none → t.released = none) ∧ (t.fault ≠ none → t.released = s.released)

theorem latchRule_raise (s : State) (f : CoreFault) : LatchRule s (s.raise f) :=
  ⟨nofun, fun _ => rfl⟩

variable {i : Instr} {s t : State}

theorem LatchRule.advance (h : LatchRule s t) : LatchRule s t.advance := by
  simpa only [LatchRule, State.advance_fault, State.advance_released] using h

theorem latchRule_exec (h : exec i s = .next t) : LatchRule s t := by
  obtain ⟨hs, ⟨f, -, rfl⟩ | ⟨-, rfl⟩⟩ := exec_next.1 h
  · exact latchRule_raise s f
  · exact ⟨fun _ => rfl, fun ht => absurd ((effectOf_fault i s).trans hs) ht⟩

theorem latchRule_execute {w : Opcode} (hs : s.running) (h : execute w s = .next t) : LatchRule s t := by
  rw [execute_running w s hs] at h
  cases hd : decode w with
  | some i => rw [hd] at h; exact latchRule_exec h
  | none => rw [hd] at h; cases h; exact latchRule_raise s _

theorem latchRule_step (h : step s = .next t) : LatchRule s t := by
  obtain ⟨-, ⟨-, rfl⟩ | ⟨-, -, rfl⟩ | ⟨-, i, u, -, he, rfl⟩⟩ := step_next.1 h
  · exact latchRule_raise s _
  · exact latchRule_raise s _
  · exact (latchRule_exec he).advance

/-- Settles O14: exec keeps the rule of the latch, and execute and step add to it only faults and the advance. -/
theorem successClearsTheReleaseLatch : Obligations.SuccessClearsTheReleaseLatch := by
  rintro s t hs (⟨i, h⟩ | ⟨w, h⟩ | h)
  · exact latchRule_exec h
  · exact latchRule_execute hs h
  · exact latchRule_step h

/-! ## The pc after a step -/

/-- A skip and the advance after it (R148). -/
theorem State.skipIf_pc_add (s : State) (c : Bool) : (s.skipIf c).pc + 2 = afterSkip s (c = true) := by
  cases c
  · rfl
  · exact BitVec.add_assoc s.pc 2 2

/-- A transfer and the advance after it reach the target (R149). -/
theorem State.transfer_pc_add (s : State) (target : Nat) : (s.transfer target).pc + 2 = BitVec.ofNat 16 target :=
  BitVec.sub_add_cancel _ _

/-- RET and the advance after it: past the CALL whose address is popped (R145). -/
theorem State.popPc_pc_add (h : 0 < s.sp.val) : s.popPc.pc + 2 = s.topEntry + 2 := by
  rw [s.popPc_eq h]
  rfl

/-- Fx0A and the advance after it: to the next word, or to itself while no release is pending (R207). -/
theorem State.takeRelease_pc_add (s : State) (x : Reg) :
    (s.takeRelease x).pc + 2 = if s.released = none then s.pc else s.pc + 2 := by
  unfold State.takeRelease
  cases s.released with
  | none => exact BitVec.sub_add_cancel _ _
  | some k => rfl

/-- Where the check passes, the effect and the advance lead to the pc of R80's table. -/
theorem effectOf_pc_add (hc : instrFault i s = none) : (effectOf i s).pc + 2 = pcAfterStep i s := by
  cases i
  case seByte | sneByte | seReg | sneReg | skp | sknp =>
    refine (s.skipIf_pc_add _).trans ?_
    simp [pcAfterStep]
  case jp nnn => exact s.transfer_pc_add _
  case call nnn => exact (s.push s.pc).transfer_pc_add _
  case jpV0 nnn => exact s.transfer_pc_add _
  case ret u =>
    have hne : s.sp.val ≠ 0 := by simpa [instrFault] using hc
    exact State.popPc_pc_add (Nat.pos_of_ne_zero hne)
  case ldVxK x => exact s.takeRelease_pc_add x
  all_goals rfl

/-- Settles O15: a step that succeeds is the effect of the fetched instruction and the advance. -/
theorem pcAfterStepIsAsListed : Obligations.PcAfterStepIsAsListed := by
  intro s t i hs hd h ht
  obtain ⟨-, ⟨-, rfl⟩ | ⟨-, -, rfl⟩ | ⟨-, j, u, hj, he, rfl⟩⟩ := step_next.1 h
  · cases ht
  · cases ht
  · obtain rfl := Option.some_inj.1 (hj.symm.trans hd)
    rw [State.advance_fault] at ht
    obtain ⟨hc, rfl⟩ := exec_completes_eq he ht
    rw [State.advance_pc, ht]
    exact effectOf_pc_add hc

end Sys2Proof.Machine
end

section
/-! PROOF. Load, arithmetic and logic (R100 to R110): a meaning that writes only registers changes only them, and the
results and flags as numbers of the operands. -/

namespace Sys2Proof.Machine

/-! ## What a write of registers alone completes with -/

section Completion

variable {i : Instr} {s : State} {x : Reg} {r f : Byte} {post : State → Prop}

/-- Registers written and the release latch cleared: every other part is kept. -/
theorem Part.same_of_registers (v : Vector Byte 16) {p : Part} (hp : p ∉ [Part.released]) :
    p.Same s ({ s with v := v } : State).clearReleased := by
  cases p
  case released => exact absurd List.mem_cons_self hp
  case memory => exact fun _ => rfl
  all_goals rfl

/-- An instruction whose effect is one register write completes, and only that register changes. -/
theorem Completes.of_setV (hs : s.running) (he : exec i s = .next (s.setV x r).clearReleased)
    (hpost : ∀ t : State, t.V x = r → post t) : Completes i s [x] [] post :=
  .of_next he hs (fun _ hj => s.V_setV_other r (List.mem_singleton.not.1 hj))
    (fun _ => Part.same_of_registers _) (hpost _ (s.V_setV_self x r))

/-- An instruction whose effect is a result and then a flag completes: VF holds the flag, also where Vx is VF, Vx the
result where it is not, and only the two change (R111). -/
theorem Completes.of_setResult (hs : s.running) (he : exec i s = .next (s.setResult x r f).clearReleased)
    (hpost : ∀ t : State, t.V VF = f → (x ≠ VF → t.V x = r) → post t) : Completes i s [x, VF] [] post := by
  refine .of_next he hs (fun j hj => ?_) (fun _ => Part.same_of_registers _) (hpost _ ?_ fun hx => ?_)
  · have hne : j ≠ x ∧ j ≠ VF := by simpa using hj
    rw [State.V_setResult, if_neg hne.2, if_neg hne.1]
  · rw [State.V_clearReleased, State.V_setResult, if_pos rfl]
  · rw [State.V_clearReleased, State.V_setResult, if_neg hx, if_pos rfl]

end Completion

/-! ## The flags and the difference as numbers (R106 to R110) -/

section Numbers

variable (a b : Byte)

theorem carryFlag_eq : carryFlag a b = if a.toNat + b.toNat > 0xFF then 1 else 0 := by
  simp only [carryFlag, flagByte, decide_eq_true_eq, gt_iff_lt]

theorem notBorrowFlag_eq : notBorrowFlag a b = if b.toNat > a.toNat then 0 else 1 := by
  simp only [notBorrowFlag, flagByte, Bool.not_eq_true', decide_eq_false_iff_not, ite_not, gt_iff_lt]

theorem toNat_shrFlag : (shrFlag b).toNat = b.toNat % 2 := by
  rw [shrFlag, BitVec.toNat_and]
  exact Nat.and_one_is_mod _

theorem toNat_shlFlag : (shlFlag b).toNat = b.toNat / 128 := by
  rw [shlFlag, BitVec.toNat_ushiftRight, Nat.shiftRight_eq_div_pow]

/-- The wrapped difference is the exact one modulo 256. -/
theorem toNat_byte_sub : ((a - b).toNat : Int) = ((a.toNat : Int) - b.toNat) % 256 := by
  have hb := b.isLt
  rw [BitVec.toNat_sub]
  omega

end Numbers

/-! ## The instructions -/

/-- Settles O18: each is a result and then the flag 0. -/
theorem logicClearsVF : Obligations.LogicClearsVF := fun s x y hs =>
  ⟨.of_setResult hs (exec_orReg s x y hs) fun _ hf hr => ⟨hf, hr⟩,
    .of_setResult hs (exec_andReg s x y hs) fun _ hf hr => ⟨hf, hr⟩,
    .of_setResult hs (exec_xorReg s x y hs) fun _ hf hr => ⟨hf, hr⟩⟩

/-- Settles O19: the wrapped sum and then the carry of the exact one. -/
theorem addRegSetsCarry : Obligations.AddRegSetsCarry := by
  intro s x y hs
  refine .of_setResult hs (exec_addReg s x y hs) fun t hf hr => ⟨hf.trans (carryFlag_eq _ _), fun hx => ?_⟩
  rw [hr hx, BitVec.toNat_add]

/-- Settles O20: the wrapped difference and then NOT borrow, SUBN with the operands exchanged. -/
theorem subtractionsSetNotBorrow : Obligations.SubtractionsSetNotBorrow := fun s x y hs =>
  ⟨.of_setResult hs (exec_subReg s x y hs) fun _ hf hr =>
      ⟨hf.trans (notBorrowFlag_eq _ _), fun hx => hr hx ▸ toNat_byte_sub _ _⟩,
    .of_setResult hs (exec_subnReg s x y hs) fun _ hf hr =>
      ⟨hf.trans (notBorrowFlag_eq _ _), fun hx => hr hx ▸ toNat_byte_sub _ _⟩⟩

/-- Settles O21: Vy halved or doubled and then the bit of Vy that leaves the byte. -/
theorem shiftsReadVy : Obligations.ShiftsReadVy := by
  intro s x y hs
  constructor
  · refine .of_setResult hs (exec_shr s x y hs) fun t hf hr => ⟨hf ▸ toNat_shrFlag _, fun hx => ?_⟩
    rw [hr hx, BitVec.toNat_ushiftRight, Nat.shiftRight_one]
  · refine .of_setResult hs (exec_shl s x y hs) fun t hf hr => ⟨hf ▸ toNat_shlFlag _, fun hx => ?_⟩
    rw [hr hx, BitVec.toNat_shiftLeft, Nat.shiftLeft_eq, pow_one]

/-- Settles O16: each is one register write. -/
theorem loadsCopyTheirOperand : Obligations.LoadsCopyTheirOperand := fun s x y kk hs =>
  ⟨.of_setV hs (exec_ldByte s x kk hs) fun _ h => h,
    .of_setV hs (exec_ldReg s x y hs) fun _ h => h⟩

/-- Settles O17: one register write, of the wrapped sum. -/
theorem addByteWrapsWithoutFlag : Obligations.AddByteWrapsWithoutFlag := by
  intro s x kk hs
  refine .of_setV hs (exec_addByte s x kk hs) fun t h => ?_
  rw [h, BitVec.toNat_add]

end Sys2Proof.Machine
end

section
/-! PROOF. Control flow (R140 to R150): a meaning that writes pc, and for CALL and RET the call stack, changes nothing
else, and nested calls unwind in reverse. -/

namespace Sys2Proof.Machine

/-! ## What a write of pc and the call stack completes with -/

section Completion

variable {i : Instr} {s : State} {w : Word} {post : State → Prop}

/-- An instruction whose effect is on pc, the stack and sp completes, and only those of the three that its parts list
change. -/
theorem Completes.of_control {k : Vector Word 16} {n : Fin 17} {parts : List Part} (hs : s.running)
    (he : exec i s = .next ({ s with pc := w, stack := k, sp := n } : State).clearReleased) (hpc : .pc ∈ parts)
    (hk : k = s.stack ∨ .stack ∈ parts) (hn : n = s.sp ∨ .sp ∈ parts)
    (hpost : post ({ s with pc := w, stack := k, sp := n } : State).clearReleased) : Completes i s [] parts post := by
  refine .of_next he hs (fun _ _ => rfl) (fun p hp => ?_) hpost
  have hp : p ≠ .released ∧ p ∉ parts := by simpa using hp
  cases p
  case released => exact absurd rfl hp.1
  case pc => exact absurd hpc hp.2
  case stack => exact hk.resolve_right hp.2
  case sp => exact hn.resolve_right hp.2
  case memory => exact fun _ => rfl
  all_goals rfl

/-- An instruction whose effect is one write of pc completes, and only pc changes. -/
theorem Completes.of_setPc (hs : s.running) (he : exec i s = .next (s.setPc w).clearReleased)
    (hpost : ∀ t : State, t.pc = w → post t) : Completes i s [] [.pc] post :=
  .of_control hs he List.mem_cons_self (.inl rfl) (.inl rfl) (hpost _ rfl)

/-- A skip is a write of pc, of its old value where the condition fails (R148). -/
theorem State.skipIf_eq (s : State) (c : Bool) : s.skipIf c = s.setPc (if c then s.pc + 2 else s.pc) := by
  cases c <;> rfl

/-- An instruction whose effect is a skip completes, and only pc changes. -/
theorem Completes.of_skipIf {c : Bool} (hs : s.running) (he : exec i s = .next (s.skipIf c).clearReleased)
    (hpost : ∀ t : State, t.pc = (if c then s.pc + 2 else s.pc) → post t) : Completes i s [] [.pc] post :=
  .of_setPc hs (s.skipIf_eq c ▸ he) hpost

end Completion

/-! ## Skips and jumps -/

/-- trunc_16(target - 2) as a number (R149, D4). -/
theorem toNat_target_sub_two (target : Nat) :
    ((BitVec.ofNat 16 target - 2).toNat : Int) = ((target : Int) - 2) % 65536 := by
  rw [BitVec.toNat_sub, BitVec.toNat_ofNat, show BitVec.toNat (2 : Word) = 2 from rfl]
  omega

/-- Settles O23: each is one skip, under the condition as a Boolean. -/
theorem skipsTestTheirCondition : Obligations.SkipsTestTheirCondition := fun s x y kk u hs =>
  ⟨.of_skipIf hs (exec_seByte s x kk hs) fun _ h => by simpa using h,
    .of_skipIf hs (exec_sneByte s x kk hs) fun _ h => by simpa using h,
    .of_skipIf hs (exec_seReg s x y u hs) fun _ h => by simpa using h,
    .of_skipIf hs (exec_sneReg s x y u hs) fun _ h => by simpa using h⟩

/-- Settles O24: one transfer, to nnn. -/
theorem jpWritesTargetMinusTwo : Obligations.JpWritesTargetMinusTwo := fun s nnn hs =>
  .of_setPc hs (exec_jp s nnn hs) fun _ h => h ▸ toNat_target_sub_two _

/-- Settles O25: one transfer, to the exact sum. -/
theorem jpV0AddsV0 : Obligations.JpV0AddsV0 := by
  refine fun s nnn hs => .of_setPc hs (exec_jpV0 s nnn hs) fun t h => ?_
  rw [h, toNat_target_sub_two, Nat.cast_add]

/-! ## CALL and RET -/

/-- The word of CALL as a number is its encoding (R72, R144). -/
theorem encode_call (nnn : Addr) : encode (.call nnn) = callWord nnn := by
  apply BitVec.eq_of_toNat_eq
  have hlt := nnn.isLt
  rw [encode, formN, callWord, BitVec.toNat_append, ← Nat.shiftLeft_add_eq_or_of_lt hlt, BitVec.toNat_ofNat,
    Nat.mod_eq_of_lt (by omega)]
  rfl

/-- The word of RET as a number is its encoding, the unexamined bits with it (R72, R76). -/
theorem encode_ret (u : Nibble) : encode (.ret u) = BitVec.ofNat 16 (u.toNat * 256 + 0xEE) := by
  revert u
  decide

/-- Settles O26: with room, the push and the transfer; with none, the listed fault. -/
theorem callPushesItsOwnAddress : Obligations.CallPushesItsOwnAddress := by
  refine fun s nnn hs => ⟨fun hsp => ?_, fun hsp => ?_⟩
  · have he := exec_call s nnn hs hsp
    rw [s.push_eq _ hsp] at he
    refine .of_control hs he (by decide) (.inr (by decide)) (.inr (by decide)) ⟨rfl, ?_, fun j hj => ?_, ?_⟩
    · exact Vector.getElem?_set_self hsp
    · exact Vector.getElem_set_ne hsp j.isLt hj.symm
    · exact toNat_target_sub_two _
  · rw [← encode_call]
    exact exec_raises hs (if_pos hsp)

/-- Settles O27: with an entry in use, the pop; with none, the listed fault. -/
theorem retPopsTheNewestEntry : Obligations.RetPopsTheNewestEntry := by
  refine fun s u hs => ⟨fun hsp => ?_, fun hsp => ?_⟩
  · have he := exec_ret s u hs hsp
    rw [s.popPc_eq hsp] at he
    refine .of_control hs he (by decide) (.inl rfl) (.inr (by decide)) ⟨Nat.sub_add_cancel hsp, ?_⟩
    exact Vector.getElem?_eq_getElem _
  · rw [← encode_ret]
    exact exec_raises hs (if_pos hsp)

/-! ## Nested calls -/

section Nesting

variable {p u : State}

/-- `executeAll` of a word that has a next state, then of the others. -/
theorem executeAll_cons {w : Opcode} {ws : List Opcode} {s t : State} (h : execute w s = .next t) :
    executeAll (w :: ws) s = executeAll ws t := by
  rw [executeAll, h]

/-- `executeAll` of words that have a next state, then of the others. -/
theorem executeAll_append {ws vs : List Opcode} {s t : State} (h : executeAll ws s = .next t) :
    executeAll (ws ++ vs) s = executeAll vs t := by
  induction ws generalizing s with
  | nil => cases h; rfl
  | cons w ws ih =>
    simp only [List.cons_append, executeAll] at h ⊢
    cases he : execute w s with
    | next r => rw [he] at h; exact ih h
    | fault f => rw [he] at h; cases h
    | refused r => rw [he] at h; cases h

/-- The state after a CALL with room on the stack (R144). -/
def State.called (s : State) (nnn : Addr) : State := ((s.push s.pc).transfer nnn.toNat).clearReleased

theorem execute_call (hs : p.running) (hsp : p.sp.val < 16) (nnn : Addr) :
    execute (callWord nnn) p = .next (p.called nnn) := by
  have hd : decode (callWord nnn) = some (.call nnn) := encode_call nnn ▸ decodeInvertsEncode (.call nnn)
  rw [(executeRunsTheDecodedInstruction p _ hs).1 _ hd]
  exact exec_call p nnn hs hsp

theorem execute_ret (hs : p.running) (hsp : 0 < p.sp.val) : execute 0x00EE p = .next p.popPc.clearReleased := by
  rw [(executeRunsTheDecodedInstruction p _ hs).1 (.ret 0) rfl]
  exact exec_ret p 0 hs hsp

theorem State.called_running (hs : p.running) (nnn : Addr) : (p.called nnn).running :=
  (p.push_fault p.pc).trans hs

theorem State.called_sp (hsp : p.sp.val < 16) (nnn : Addr) : (p.called nnn).sp.val = p.sp.val + 1 := by
  simp [State.called, p.push_eq _ hsp]

theorem State.called_stack (hsp : p.sp.val < 16) (nnn : Addr) :
    (p.called nnn).stack = p.stack.set p.sp.val p.pc := by
  simp [State.called, p.push_eq _ hsp]

/-- From p to u, all that differs is stale stack entries and the release latch. -/
structure Restores (p u : State) : Prop where
  frame : Frame p u [] [.stack, .released]
  live : ∀ j : Fin 16, j.val < p.sp.val → u.stack[j.val] = p.stack[j.val]

theorem Part.same_refl (q : Part) (s : State) : q.Same s s := by
  cases q
  case memory => exact fun _ => rfl
  all_goals rfl

theorem Restores.refl (p : State) : Restores p p :=
  ⟨⟨fun _ _ => rfl, fun q _ => q.same_refl p⟩, fun _ _ => rfl⟩

/-- A RET from a state that restores the one after a CALL restores the one before it. -/
theorem Restores.ret_of_call {nnn : Addr} (hsp : p.sp.val < 16) (h : Restores (p.called nnn) u) :
    Restores p u.popPc.clearReleased := by
  obtain ⟨⟨hregs, hparts⟩, hlive⟩ := h
  have husp : u.sp.val = p.sp.val + 1 := (congrArg Fin.val (hparts .sp (by decide))).trans (p.called_sp hsp nnn)
  have hentry (j : Fin 16) (hj : j.val ≤ p.sp.val) : u.stack[j.val] = (p.stack.set p.sp.val p.pc)[j.val] := by
    rw [hlive j (by rw [State.called_sp hsp]; omega)]
    simp only [State.called_stack hsp]
  have hpop := u.popPc_eq (by omega)
  refine ⟨⟨fun j hj => ?_, fun q hq => ?_⟩, fun j hj => ?_⟩
  · simpa [State.called] using hregs j hj
  · cases q
    case stack | released => simp at hq
    case pc =>
      have htop := hentry ⟨p.sp.val, hsp⟩ le_rfl
      simpa [Part.Same, hpop, husp] using htop
    case sp =>
      apply Fin.ext
      simp [hpop, husp]
    all_goals simpa [Part.Same, State.called] using hparts _ hq
  · have hne : p.sp.val ≠ j.val := by omega
    simpa [hne] using hentry j hj.le

/-- As many RETs as calls restore the state before the calls: the last call is undone first (R150). -/
theorem calls_unwind (Q : List Addr) (hs : p.running) (hroom : p.sp.val + Q.length ≤ 16) :
    ∃ u, executeAll (Q.map callWord ++ List.replicate Q.length 0x00EE) p = .next u ∧ Restores p u := by
  induction Q generalizing p with
  | nil => exact ⟨p, rfl, .refl p⟩
  | cons nnn Q ih =>
    rw [List.length_cons] at hroom
    have hsp : p.sp.val < 16 := by omega
    have hsp' := State.called_sp hsp nnn
    have hs' := State.called_running hs nnn
    obtain ⟨u, hu, hr⟩ := ih hs' (by omega)
    obtain ⟨-, hparts⟩ := hr.frame
    have husp : u.sp = (p.called nnn).sp := hparts .sp (by decide)
    have hrun : u.running := (hparts .fault (by decide)).trans hs'
    refine ⟨_, ?_, hr.ret_of_call hsp⟩
    rw [List.map_cons, List.cons_append, executeAll_cons (execute_call hs hsp nnn), List.length_cons,
      List.replicate_succ', ← List.append_assoc, executeAll_append hu,
      executeAll_cons (execute_ret hrun (by omega)), executeAll]

/-- Calls alone, where the stack has room: the core stays running and each is one entry more. -/
theorem calls_complete (P : List Addr) (hs : p.running) (hroom : p.sp.val + P.length ≤ 16) :
    ∃ t, executeAll (P.map callWord) p = .next t ∧ t.running ∧ t.sp.val = p.sp.val + P.length := by
  induction P generalizing p with
  | nil => exact ⟨p, rfl, hs, rfl⟩
  | cons nnn P ih =>
    rw [List.length_cons] at hroom
    have hsp : p.sp.val < 16 := by omega
    have hsp' := State.called_sp hsp nnn
    obtain ⟨t, ht, hrun, hlen⟩ := ih (State.called_running hs nnn) (by omega)
    refine ⟨t, ?_, hrun, by rw [List.length_cons]; omega⟩
    rw [List.map_cons, executeAll_cons (execute_call hs hsp nnn), ht]

end Nesting

/-- Settles O28: the calls Q unwind from the state after the calls P. -/
theorem callsUnwindInReverse : Obligations.CallsUnwindInReverse := by
  intro s P Q hs hroom
  obtain ⟨p, hp, hrun, hsp⟩ := calls_complete P hs (by omega)
  obtain ⟨u, hu, hframe, hlive⟩ := calls_unwind Q hrun (by omega)
  refine ⟨p, u, hp, ?_, hframe.2 .pc (by decide), hframe.2 .sp (by decide), hlive, hframe⟩
  rw [List.map_append, List.append_assoc, executeAll_append hp, hu]

end Sys2Proof.Machine
end

section
/-! PROOF. The index register and the random byte (R170 to R172): a meaning that writes I changes only I, and RND changes
only its register and the draw counter. -/

namespace Sys2Proof.Machine

/-! ## What a write of I, and a draw, complete with -/

section Completion

variable {i : Instr} {s : State} {post : State → Prop}

/-- An instruction whose effect is one write of I completes, and only I changes. -/
theorem Completes.of_setI {w : Word} (hs : s.running) (he : exec i s = .next (s.setI w).clearReleased)
    (hpost : ∀ t : State, t.i = w → post t) : Completes i s [] [.index] post := by
  refine .of_next he hs (fun _ _ => rfl) (fun p hp => ?_) (hpost _ rfl)
  cases p
  case index | released => simp at hp
  case memory => exact fun _ => rfl
  all_goals rfl

/-- An instruction whose effect is one register write that uses up the free value completes, and only that register and
the draw counter change (D17). -/
theorem Completes.of_setV_nextDraw {x : Reg} {r : Byte} (hs : s.running)
    (he : exec i s = .next (s.setV x r).nextDraw.clearReleased)
    (hpost : ∀ t : State, t.V x = r → t.draws = s.draws + 1 → post t) : Completes i s [x] [.draws] post := by
  refine .of_next he hs (fun j hj => ?_) (fun p hp => ?_) (hpost _ (s.V_setV_self x r) rfl)
  · rw [State.V_nextDraw, State.V_setV_other s r (List.mem_singleton.not.1 hj)]
  · cases p
    case draws | released => simp at hp
    case memory => exact fun _ => rfl
    all_goals rfl

end Completion

/-! ## The instructions -/

/-- Settles O30: each is one write of I, of nnn zero-extended and of the sum wrapped at 16 bits. -/
theorem indexIsSetAndAdvanced : Obligations.IndexIsSetAndAdvanced := by
  intro s nnn x hs
  constructor
  · refine .of_setI hs (exec_ldI s nnn hs) fun t hi => ?_
    rw [hi, BitVec.zeroExtend, BitVec.toNat_setWidth_of_le (by decide)]
  · refine .of_setI hs (exec_addI s x hs) fun t hi => ?_
    rw [hi, BitVec.toNat_add, BitVec.zeroExtend, BitVec.toNat_setWidth_of_le (by decide)]

/-- Settles O31: one register write, of the free byte AND kk, whose bits are all within kk. -/
theorem rndMasksAFreeByte : Obligations.RndMasksAFreeByte := by
  intro s x kk hs
  refine .of_setV_nextDraw hs (exec_rnd s x kk hs) fun t hv hd => ⟨hv, hd, ?_, fun hkk => ?_⟩
  · rw [hv, BitVec.and_assoc, BitVec.and_not_self]
    exact BitVec.and_zero
  · rw [hv, hkk]
    exact BitVec.and_zero

end Sys2Proof.Machine
end

section
/-! PROOF. The display (R180 to R184): CLS and DRW change nothing but the screen and VF, and what a drawn sprite leaves
on the screen and in VF. -/

namespace Sys2Proof.Machine

/-! ## What a write of the screen completes with -/

section Completion

variable {i : Instr} {s : State} {post : State → Prop}

/-- The registers and the screen written and the release latch cleared: every other part is kept. -/
theorem Part.same_of_display (v : Vector Byte 16) (scr : Screen) {p : Part} (hp : p ∉ [Part.released, Part.screen]) :
    p.Same s ({ s with v := v, screen := scr } : State).clearReleased := by
  cases p
  case released | screen => simp at hp
  case memory => exact fun _ => rfl
  all_goals rfl

/-- An instruction whose effect is one write of the screen completes, and only the screen changes. -/
theorem Completes.of_setScreen {scr : Screen} (hs : s.running) (he : exec i s = .next (s.setScreen scr).clearReleased)
    (hpost : ∀ t : State, t.screen = scr → post t) : Completes i s [] [.screen] post :=
  .of_next he hs (fun _ _ => rfl) (fun _ => Part.same_of_display _ _) (hpost _ rfl)

end Completion

/-! ## What DRW's effect leaves on the screen and in VF -/

section Sprite

variable (s : State) (x y : Reg) (n : Nat)

/-- The drawing of DRW's effect: the sprite at I over the old screen, from the coordinates DRW reads (R181). -/
def State.drawing : Drawing :=
  Drawing.rows (s.screen, false) (drawCoord s x) (drawCoord s y) (s.sprite n)

theorem State.drawSprite_eq :
    s.drawSprite x y n =
      ((s.setVF 0).setVF (flagByte (s.drawing x y n).2)).setScreen (s.drawing x y n).1 := by
  rw [State.drawing, ← toNat_drawCoord, ← toNat_drawCoord]
  rfl

/-- Every pixel of the grid is XORed with the sprite's bit there (R181, R182). -/
theorem State.lit_drawSprite {px py : Nat} (hx : px < 64) (hy : py < 32) :
    (s.drawSprite x y n).screen.lit px py =
      (s.screen.lit px py ^^ spriteCovers s n (drawCoord s x) (drawCoord s y) px py) := by
  rw [State.drawSprite_eq, State.setScreen_screen, State.drawing, Drawing.lit_rows _ _ _ _ _ _ ⟨hx, hy⟩,
    spriteBit_sprite]

theorem flagByte_eq_one (c : Bool) : flagByte c = 1 ↔ c = true := by
  cases c <;> decide

/-- The flag is 1 exactly where the sprite collides (R183). -/
theorem State.V_drawSprite_eq_one :
    (s.drawSprite x y n).V VF = 1 ↔ Collides s n (drawCoord s x) (drawCoord s y) := by
  rw [State.drawSprite_eq, State.V_setScreen, State.V_setVF_self, flagByte_eq_one, State.drawing,
    Drawing.collision_rows]
  simp [spriteBit_sprite, Collides]

/-- Where its n addresses are in memory, DRW is its effect (R181). -/
theorem exec_drw_in_range {n : Fin 16} (hs : s.running) (hin : n.val = 0 ∨ s.i.toNat + n.val ≤ 0x1000) :
    exec (.drw x y n) s = .next (s.drawSprite x y n.val).clearReleased :=
  exec_next.2 ⟨hs, .inr ⟨accessFault_eq_none _ s n.val hin, rfl⟩⟩

/-! ## A second drawing of the same sprite -/

/-- DRW moves no coordinate: of the registers it writes VF only, and VF as a coordinate is 0 (D13). -/
theorem drawCoord_drawSprite (z : Reg) : drawCoord (s.drawSprite x y n).clearReleased z = drawCoord s z := by
  unfold drawCoord
  split
  · rfl
  · next hz => rw [State.V_clearReleased, s.V_drawSprite_other x y n hz]

/-- DRW leaves its own sprite where it is: I and memory are kept. -/
theorem spriteCovers_drawSprite (m cx cy px py : Nat) :
    spriteCovers (s.drawSprite x y n).clearReleased m cx cy px py = spriteCovers s m cx cy px py := rfl

/-- Two XORs with the same sprite cancel out. -/
theorem State.lit_drawSprite_twice {px py : Nat} (hx : px < 64) (hy : py < 32) :
    ((s.drawSprite x y n).clearReleased.drawSprite x y n).screen.lit px py = s.screen.lit px py := by
  rw [State.lit_drawSprite _ x y n hx hy, drawCoord_drawSprite, drawCoord_drawSprite, spriteCovers_drawSprite,
    State.clearReleased_screen, State.lit_drawSprite s x y n hx hy, Bool.xor_assoc, Bool.xor_self, Bool.xor_false]

/-- The second drawing collides where the first one lit a pixel: under a sprite bit, lit now is off at first. -/
theorem collides_drawSprite :
    Collides (s.drawSprite x y n).clearReleased n (drawCoord s x) (drawCoord s y) ↔
      ∃ px py, px < 64 ∧ py < 32 ∧ s.screen.lit px py = false ∧
        spriteCovers s n (drawCoord s x) (drawCoord s y) px py = true := by
  refine exists₂_congr fun px py => and_congr_right fun hx => and_congr_right fun hy => ?_
  rw [spriteCovers_drawSprite, State.clearReleased_screen, State.lit_drawSprite s x y n hx hy, and_comm]
  refine and_congr_left fun hbit => ?_
  rw [hbit, Bool.xor_true, Bool.not_eq_true']

end Sprite

/-! ## The instructions -/

/-- Settles O33: DRW's effect, whose registers but VF and whose parts but the screen are those of s. -/
theorem drwXorsTheClippedSprite : Obligations.DrwXorsTheClippedSprite := fun s x y n hs hin =>
  .of_next (exec_drw_in_range s x y hs hin) hs
    (fun _ hj => s.V_drawSprite_other x y n.val (List.mem_singleton.not.1 hj))
    (fun _ => Part.same_of_display _ _) fun _ _ => s.lit_drawSprite x y n.val

/-- Settles O34: the flag is 0 or 1, and 1 exactly where the sprite collides. -/
theorem drwFlagIsCollision : Obligations.DrwFlagIsCollision := by
  intro s x y n hs hin
  have hone := s.V_drawSprite_eq_one x y n.val
  exact ⟨_, exec_drw_in_range s x y hs hin, hone.2,
    fun hnone => (effectOf_flag (i := .drw x y n) s rfl).resolve_right (mt hone.1 hnone)⟩

/-- Settles O35: the second DRW draws the same sprite at the same place over what the first one left. -/
theorem drawingTwiceRestoresTheScreen : Obligations.DrawingTwiceRestoresTheScreen := by
  intro s x y n hs hin
  refine ⟨_, _, exec_drw_in_range s x y hs hin, exec_drw_in_range _ x y hs hin,
    fun _ _ => s.lit_drawSprite_twice x y n.val, ?_⟩
  rw [State.V_clearReleased, State.V_drawSprite_eq_one, drawCoord_drawSprite, drawCoord_drawSprite]
  exact collides_drawSprite s x y n.val

/-- Settles O32: one write of the screen, of the blank one. -/
theorem clsTurnsEveryPixelOff : Obligations.ClsTurnsEveryPixelOff := by
  refine fun s u hs => .of_setScreen hs (exec_cls s u hs) fun t ht px py _ _ => ?_
  rw [ht, Screen.lit_blank]

end Sys2Proof.Machine
end

section
/-! PROOF. Keys and timers (R200 to R207): the key skips test the input latch, Fx0A takes a release or waits where it is,
and a meaning that writes a timer changes only that timer. -/

namespace Sys2Proof.Machine

/-! ## What a write of a timer completes with -/

section Completion

variable {i : Instr} {s : State} {post : State → Prop}

/-- An instruction whose effect is on the timers completes, and only those of the two that its parts list change. -/
theorem Completes.of_timers {d e : Byte} {parts : List Part} (hs : s.running)
    (he : exec i s = .next ({ s with dt := d, st := e } : State).clearReleased) (hd : d = s.dt ∨ .dt ∈ parts)
    (hst : e = s.st ∨ .st ∈ parts) (hpost : post ({ s with dt := d, st := e } : State).clearReleased) :
    Completes i s [] parts post := by
  refine .of_next he hs (fun _ _ => rfl) (fun p hp => ?_) hpost
  have hp : p ≠ .released ∧ p ∉ parts := by simpa using hp
  cases p
  case released => exact absurd rfl hp.1
  case dt => exact hd.resolve_right hp.2
  case st => exact hst.resolve_right hp.2
  case memory => exact fun _ => rfl
  all_goals rfl

end Completion

/-! ## The timer moves -/

/-- Settles O39: one register write, of dt, and one write of each timer, of Vx. -/
theorem timerMovesCopy : Obligations.TimerMovesCopy := fun s x hs =>
  ⟨.of_setV hs (exec_ldVxDt s x hs) fun _ h => h,
    .of_timers hs (exec_ldDtVx s x hs) (.inr List.mem_cons_self) (.inl rfl) rfl,
    .of_timers hs (exec_ldStVx s x hs) (.inl rfl) (.inr List.mem_cons_self) rfl⟩

/-! ## The key skips -/

/-- Where the key is one of the sixteen, the latch's entry is what the skips test (R30, R206). -/
theorem State.keys_getElem? (s : State) {k : Nat} (hk : k ≤ 0xF) : s.keys[k]? = some (s.keyDown k) := by
  have hk : k < 16 := Nat.lt_succ_of_le hk
  rw [State.keyDown, dif_pos hk, Vector.getElem?_eq_getElem hk]

/-- The word of SKP as a number is its encoding (R72, R200). -/
theorem encode_skp (x : Reg) : encode (.skp x) = BitVec.ofNat 16 (0xE09E + x.val * 256) := by
  revert x
  decide

/-- The word of SKNP as a number is its encoding (R72, R201). -/
theorem encode_sknp (x : Reg) : encode (.sknp x) = BitVec.ofNat 16 (0xE0A1 + x.val * 256) := by
  revert x
  decide

/-- Settles O36: with Vx a key, one skip each, on the two values of the key; above, the listed fault. -/
theorem keySkipsTestTheLatch : Obligations.KeySkipsTestTheLatch := by
  refine fun s x hs => ⟨fun hk => ?_, fun hk => ?_⟩
  · rw [s.keys_getElem? hk]
    exact ⟨.of_skipIf hs (exec_skp s x hs hk) fun _ h => by simpa using h,
      .of_skipIf hs (exec_sknp s x hs hk) fun _ h => by simpa using h⟩
  · rw [← encode_skp, ← encode_sknp]
    exact ⟨exec_raises hs (if_pos hk), exec_raises hs (if_pos hk)⟩

/-! ## The wait for a key -/

/-- Settles O37: with a release, one register write, of a key that fits a byte; with none, one write of pc. -/
theorem waitForKeyTakesARelease : Obligations.WaitForKeyTakesARelease := by
  refine fun s x hs => ⟨fun k hr => ?_, fun hr => ?_⟩
  · refine .of_setV hs (exec_ldVxK_some s x k hs hr) fun t h => ?_
    rw [h, BitVec.toNat_ofNat, Nat.mod_eq_of_lt (by omega)]
  · refine .of_setPc hs (exec_ldVxK_none s x hs hr) fun t h => ?_
    rw [h, ← toNat_target_sub_two, BitVec.ofNat_toNat, BitVec.setWidth_eq]

/-- The advance undoes the rewind, and the release latch was empty already (R80, R207). -/
theorem State.advance_rewind {s : State} (hs : s.running) (hr : s.released = none) :
    s.rewind.clearReleased.advance = s := by
  calc s.rewind.clearReleased.advance
      = { s with pc := s.pc - 2 + 2, released := none } := by
        rw [State.advance_eq]
        exact if_pos hs
    _ = s := by rw [BitVec.sub_add_cancel, ← hr]

/-- Settles O38: the fetched wait rewinds pc, and the step advances it again. -/
theorem waitingStepChangesNothing : Obligations.WaitingStepChangesNothing := fun s x hs hpc hr hd =>
  step_next.2 ⟨hs, .inr (.inr ⟨hpc, .ldVxK x, _, hd, exec_ldVxK_none s x hs hr, (State.advance_rewind hs hr).symm⟩)⟩

end Sys2Proof.Machine
end

section
/-! PROOF. Memory transfer (R220 to R224): a meaning that writes registers, I or memory changes nothing else; what Fx55
stores Fx65 loads back, and a font slot holds the glyph that DRW shows. -/

namespace Sys2Proof.Machine

/-! ## What a transfer between memory, registers and I completes with -/

section Completion

variable {i : Instr} {s : State} {post : State → Prop}

/-- An instruction whose effect is on the registers, I and memory completes, and of those only what its two lists name
changes. -/
theorem Completes.of_transfer {v : Vector Byte 16} {w : Word} {m : Memory} {regs : List Reg} {parts : List Part}
    (hs : s.running) (he : exec i s = .next ({ s with v := v, i := w, mem := m } : State).clearReleased)
    (hv : ∀ j : Reg, j ∉ regs → v[j.val] = s.V j) (hw : w = s.i ∨ .index ∈ parts) (hm : m = s.mem ∨ .memory ∈ parts)
    (hpost : post ({ s with v := v, i := w, mem := m } : State).clearReleased) : Completes i s regs parts post := by
  refine .of_next he hs hv (fun p hp => ?_) hpost
  have hp : p ≠ .released ∧ p ∉ parts := by simpa using hp
  cases p
  case released => exact absurd rfl hp.1
  case index => exact hw.resolve_right hp.2
  case memory => exact fun a => congrArg (Memory.read · a) (hm.resolve_right hp.2)
  all_goals rfl

end Completion

/-- No address of an access faults where its last one is in memory (R56, R224). -/
theorem accessFault_of_ea_le {s : State} {k : Nat} (w : Opcode) (hin : s.ea k ≤ 0xFFF) :
    accessFault w s (k + 1) = none :=
  accessFault_eq_none w s _ (.inr (Nat.add_le_add_right hin 1))

/-! ## Font address and decimal digits -/

/-- Settles O41: one write of I, of a slot's address, which fits 16 bits. -/
theorem ldFPointsAtTheSlot : Obligations.LdFPointsAtTheSlot := by
  refine fun s x hs => .of_setI hs (exec_ldF s x hs) fun t hi => ?_
  rw [hi, BitVec.toNat_ofNat, fontAddress, fontStride]
  omega

/-- The word of Fx33 as a number is its encoding (R72, R221). -/
theorem encode_ldB (x : Reg) : encode (.ldB x) = BitVec.ofNat 16 (0xF033 + x.val * 256) := by
  revert x
  decide

/-- Settles O42: where the three addresses are in memory, one store of the three digits; else, the listed fault. -/
theorem ldBStoresTheDigits : Obligations.LdBStoresTheDigits := by
  refine fun s x hs => ⟨fun hin => ?_, fun hout => ?_⟩
  · have hbyte := (s.V x).isLt
    have hdigit (k n : Nat) (hk : (bcdDigits (s.V x))[k]? = some (BitVec.ofNat 8 n)) (hn : n < 256) :
        ((s.storeBytes (s.ea 0) (bcdDigits (s.V x))).byte (s.ea k)).toNat = n := by
      rw [show s.ea k = s.ea 0 + k from rfl, s.byte_storeBytes_at _ k hk, BitVec.toNat_ofNat, Nat.mod_eq_of_lt hn]
    exact .of_transfer hs (exec_ldB s x hs (accessFault_of_ea_le _ hin)) (fun _ _ => rfl) (.inl rfl)
      (.inr (by decide))
      ⟨hdigit 0 _ rfl (by omega), hdigit 1 _ rfl (by omega), hdigit 2 _ rfl (by omega),
        fun a => s.byte_storeBytes_outside (s.ea 0) a (bcdDigits (s.V x))⟩
  · rw [← encode_ldB]
    exact exec_raises hs (if_pos ⟨by decide, hout⟩)

/-! ## Block transfer -/

/-- I after a block in memory: at most 0x1000, so nothing wraps (R222, R223). -/
theorem toNat_ea_after_block {s : State} {x : Reg} (hin : s.ea x.val ≤ 0xFFF) :
    (BitVec.ofNat 16 (s.ea (x.val + 1))).toNat = s.i.toNat + x.val + 1 := by
  simp only [State.ea] at hin
  rw [BitVec.toNat_ofNat, State.ea]
  omega

/-- Settles O43: the registers stored at I onward, and I advanced. -/
theorem storeRegsStoresAndAdvances : Obligations.StoreRegsStoresAndAdvances := by
  intro s x hs hin
  refine .of_transfer hs (exec_storeRegs s x hs (accessFault_of_ea_le _ hin)) (fun _ _ => rfl) (.inr (by decide))
    (.inr (by decide)) ⟨fun k hk => s.byte_storeBytes_regsUpTo x k hk, fun a ha => ?_, toNat_ea_after_block hin⟩
  exact s.byte_storeBytes_outside (s.ea 0) a _ (by
    rw [State.length_regsUpTo]
    simp only [State.ea] at ha ⊢
    omega)

/-- Settles O44: the registers up to x loaded from I onward, and I advanced. -/
theorem loadRegsLoadsAndAdvances : Obligations.LoadRegsLoadsAndAdvances := by
  intro s x hs hin
  have hV (j : Reg) := s.V_setVUpTo x j fun k => s.byte (s.ea k)
  refine .of_transfer hs (exec_loadRegs s x hs (accessFault_of_ea_le _ hin)) (fun j hj => ?_) (.inr (by decide))
    (.inl rfl) ⟨fun k hk => (hV k).trans (if_pos hk), toNat_ea_after_block hin⟩
  have hx : ¬ j ≤ x := by simpa using hj
  exact (hV j).trans (if_neg hx)

/-- Settles O45: the load reads each byte where the store put it. -/
theorem storedRegistersLoadBack : Obligations.StoredRegistersLoadBack := by
  intro s t u x hs h ht hu hi hmem
  obtain ⟨hc, -⟩ := exec_completes_eq h ht
  have hin : s.ea x.val ≤ 0xFFF := Nat.le_of_lt_succ (access_in_memory (Nat.succ_ne_zero x.val) hc)
  obtain ⟨t', ht', -, -, -, hstored, -⟩ := storeRegsStoresAndAdvances s x hs hin
  obtain rfl : t = t' := Host.Outcome.next.inj (h.symm.trans ht')
  have hea (k : Nat) : u.ea k = s.ea k := by rw [State.ea, hi, State.ea]
  obtain ⟨w, hw, hwf, -, -, hloaded, -⟩ := loadRegsLoadsAndAdvances u x hu ((hea x.val).le.trans hin)
  exact ⟨w, hw, hwf, fun k hk => by rw [hloaded k hk, hmem, hea, hstored k hk]⟩

/-! ## The glyph on the screen -/

/-- A slot of the font holds its glyph's rows (R52). -/
theorem resetByte_slot {d r : Nat} (hd : d < 16) (hr : r < 5) : resetByte (d * 6 + r) = glyphRow d r := by
  have hrow : (d * 6 + r) % 6 = r := by omega
  have hdigit : (d * 6 + r) / 6 = d := by omega
  simp only [resetByte, fontStride, glyphHeight, hrow, hdigit]
  rw [if_pos (by omega), if_pos hr]

/-- Inside its box, a sprite's bit is bit 7 - c of its row r (R181, R184). -/
theorem spriteCovers_inside (s : State) {n c r : Nat} (cx cy : Nat) (hc : c < 8) (hr : r < n) :
    spriteCovers s n cx cy (cx + c) (cy + r) = (s.byte (s.ea r)).getLsbD (7 - c) := by
  simp [spriteCovers, hc, hr]

/-- Settles O46: at the slot's address DRW's five rows are the glyph's, XORed onto pixels that are off. -/
theorem fontDigitIsDrawn : Obligations.FontDigitIsDrawn := by
  intro s x y z hs hfont hoff hy hz
  obtain ⟨t, ht, htf, -, ⟨hregs, hparts⟩, hi⟩ := ldFPointsAtTheSlot s x hs
  have hd : (s.V x).toNat % 16 < 16 := Nat.mod_lt _ (by decide)
  have hcoord (j : Reg) : drawCoord t j = drawCoord s j := by rw [drawCoord, hregs j List.not_mem_nil, drawCoord]
  have hscreen : t.screen = s.screen := hparts .screen (by decide)
  have hglyph {r : Nat} (hr : r < 5) : t.byte (t.ea r) = glyphRow ((s.V x).toNat % 16) r := by
    rw [State.ea, hi, hparts .memory (by decide), hfont _ (by omega), resetByte_slot hd hr]
  have hin : t.i.toNat + (5 : Fin 16).val ≤ 0x1000 := by
    rw [hi]
    omega
  refine ⟨t, _, ht, exec_drw_in_range t y z htf (.inr hin), ?_, fun c r hc hr => ?_⟩
  · refine (effectOf_flag (i := .drw y z 5) t rfl).resolve_right fun hone => ?_
    obtain ⟨px, py, -, -, -, hlit⟩ := (t.V_drawSprite_eq_one y z 5).1 hone
    rw [hscreen, hoff] at hlit
    cases hlit
  · refine (t.lit_drawSprite y z 5 (by omega) (by omega)).trans ?_
    rw [hscreen, hoff, Bool.false_xor, hcoord, hcoord, spriteCovers_inside t _ _ hc hr, hglyph hr]

end Sys2Proof.Machine
end

section
/-! PROOF. Faults (R240, R247, R248): a marked core has no transition, a running one always answers with the fault that
R240 lists, and a fault changes nothing but the mark. -/

namespace Sys2Proof.Machine

variable {i : Instr} {s t : State}

/-! ## The mark stops the core -/

/-- Settles O10: the mark is looked at first by each of the three. -/
theorem faultedCoreHasNoTransition : Obligations.FaultedCoreHasNoTransition := fun s f hf =>
  ⟨step_faulted s f hf, fun w => execute_faulted w s f hf, fun i => exec_faulted i s f hf⟩

/-! ## A running core answers with the listed fault -/

/-- Settles O13: the check of exec is the fault R240 lists. -/
theorem everyInstructionCompletesOrFaults : Obligations.EveryInstructionCompletesOrFaults := by
  refine fun i s hs => ⟨fun hc => ?_, fun f => exec_raises hs⟩
  obtain ⟨t, he, ht, -⟩ := exec_outcome i s hs
  exact ⟨t, he, ht.trans hc⟩

/-- Settles O12: the three outcomes of `step_next`, in the order of R248; the advance keeps the mark exec leaves. -/
theorem stepRaisesTheListedFault : Obligations.StepRaisesTheListedFault := by
  intro s hs
  rw [stepFault]
  by_cases hpc : 0xFFE < s.pc.toNat
  · rw [if_pos hpc]
    exact ⟨_, step_next.2 ⟨hs, .inl ⟨hpc, rfl⟩⟩, rfl⟩
  · rw [if_neg hpc]
    have hfetch := not_lt.1 hpc
    cases hd : decode s.fetchWord with
    | none => exact ⟨_, step_next.2 ⟨hs, .inr (.inl ⟨hfetch, hd, rfl⟩)⟩, rfl⟩
    | some i =>
      obtain ⟨t, he, ht, -⟩ := exec_outcome i s hs
      exact ⟨_, step_next.2 ⟨hs, .inr (.inr ⟨hfetch, i, t, hd, he, rfl⟩)⟩, t.advance_fault.trans ht⟩

/-! ## A fault is precise -/

/-- All that execute can answer as a next state: the decoder's fault, or what exec of the decoded instruction answers
(R78). -/
theorem execute_next {w : Opcode} :
    execute w s = .next t ↔ s.fault = none ∧
      ((decode w = none ∧ t = s.raise (.invalidOpcode w s.pc)) ∨ ∃ i, decode w = some i ∧ exec i s = .next t) := by
  cases hs : s.fault with
  | some f => simp [execute_faulted w s f hs]
  | none =>
    rw [execute_running w s hs]
    cases decode w <;> simp [eq_comm]

/-- From s to t, a mark is all that has changed where t is marked (R247). -/
def Precise (s t : State) : Prop := ∀ f, t.fault = some f → t = { s with fault := some f }

theorem precise_raise (s : State) (f : CoreFault) : Precise s (s.raise f) := by
  rintro _ ⟨⟩
  rfl

/-- A fault suppresses the advance (R79). -/
theorem Precise.advance (h : Precise s t) : Precise s t.advance := by
  intro f hf
  rw [State.advance_fault] at hf
  rw [t.advance_eq, if_neg (hf ▸ nofun)]
  exact h f hf

theorem precise_exec (h : exec i s = .next t) : Precise s t := by
  obtain ⟨hs, ⟨f, -, rfl⟩ | ⟨-, rfl⟩⟩ := exec_next.1 h
  · exact precise_raise s f
  · intro f hf
    have hnone : (effectOf i s).clearReleased.fault = none := (effectOf_fault i s).trans hs
    cases hnone.symm.trans hf

theorem precise_execute {w : Opcode} (h : execute w s = .next t) : Precise s t := by
  obtain ⟨-, ⟨-, rfl⟩ | ⟨i, -, he⟩⟩ := execute_next.1 h
  · exact precise_raise s _
  · exact precise_exec he

theorem precise_step (h : step s = .next t) : Precise s t := by
  obtain ⟨-, ⟨-, rfl⟩ | ⟨-, -, rfl⟩ | ⟨-, i, u, -, he, rfl⟩⟩ := step_next.1 h
  · exact precise_raise s _
  · exact precise_raise s _
  · exact (precise_exec he).advance

/-- Settles O11: the check comes before the effect, and execute and step add to exec only faults and the advance. -/
theorem faultsArePrecise : Obligations.FaultsArePrecise := by
  rintro s t f - hf (⟨i, h⟩ | ⟨w, h⟩ | h)
  · exact precise_exec h f hf
  · exact precise_execute h f hf
  · exact precise_step h f hf

end Sys2Proof.Machine
end

section
/-! PROOF. The driver's operations (R255 to R262): the accessors, the tick and the input update, what a call can leave, and
the canonical memory along any list of calls. -/

namespace Sys2Proof.Machine

variable {s t : State}

/-! ## The accessors -/

/-- Settles O57: each accessor answers the state it was called on; those with an index check it first. -/
theorem accessorsOnlyRead : Obligations.AccessorsOnlyRead := by
  refine fun s => ⟨fun x => ?_, fun i hi => ?_, rfl, rfl, fun a ha => ?_, fun a ha => ?_, fun _ _ => rfl, rfl, rfl,
    fun k => ?_, fun k hk => ?_⟩
  · rw [call, dif_pos x.isLt]
  · rw [call, dif_neg (by omega)]
  · rw [call, if_pos ha]
  · rw [call, if_neg (by omega)]
  · rw [call, if_pos (by omega), State.keyDown, dif_pos k.isLt]
  · rw [call, if_neg (by omega)]

/-! ## The tick -/

theorem toNat_tickDown_iterate (b : Byte) (n : Nat) : (tickDown^[n] b).toNat = b.toNat - n := by
  induction n with
  | zero => rfl
  | succ n ih => rw [Function.iterate_succ_apply', toNat_tickDown, ih, Nat.sub_sub]

/-- Any number of ticks: each timer ticked as often, and nothing else (R256). -/
theorem State.onTick_iterate (s : State) (n : Nat) :
    State.onTick^[n] s = { s with dt := tickDown^[n] s.dt, st := tickDown^[n] s.st } := by
  induction n with
  | zero => rfl
  | succ n ih => simp only [Function.iterate_succ_apply', ih, State.onTick]

/-- Settles O53: n ticks tick each timer n times. -/
theorem ticksCountDownAndSaturate : Obligations.TicksCountDownAndSaturate := by
  intro s n
  rw [s.onTick_iterate n]
  exact ⟨toNat_tickDown_iterate s.dt n, toNat_tickDown_iterate s.st n, rfl⟩

/-! ## The input update -/

/-- The release latched is the released key at the place picked, taken modulo how many there are; none of none (R258). -/
theorem State.updateInputs_released (s : State) (states : Vector Bool 16) :
    (s.updateInputs states).released =
      (releasedKeys s.keys states)[Config.releasePick s.draws % (releasedKeys s.keys states).length]? := by
  unfold State.updateInputs
  cases releasedKeys s.keys states <;> rfl

/-- A place taken modulo the length is one of the list unless the list is empty. -/
theorem getElem?_mod_length_eq_none {α : Type} {l : List α} {n : Nat} : l[n % l.length]? = none ↔ l = [] := by
  rw [List.getElem?_eq_none_iff, ← List.length_eq_zero_iff]
  refine ⟨fun h => ?_, fun h => h ▸ Nat.zero_le _⟩
  by_contra hne
  exact h.not_gt (Nat.mod_lt n (Nat.pos_of_ne_zero hne))

/-- Settles O54: what is latched is an element of the list of released keys, where there is one. -/
theorem updateInputsLatchesARelease : Obligations.UpdateInputsLatchesARelease := by
  intro s states
  have hreleased := s.updateInputs_released states
  refine ⟨by rw [State.updateInputs_eq], ?_, fun k hk => ?_, ?_⟩
  · rw [hreleased, getElem?_mod_length_eq_none, List.eq_nil_iff_forall_not_mem]
    exact forall_congr' fun k => not_congr (mem_releasedKeys ..)
  · exact (mem_releasedKeys ..).1 (List.mem_of_getElem? (hreleased.symm.trans hk))
  · rw [State.updateInputs_eq]
    refine ⟨fun _ _ => rfl, fun p hp => ?_⟩
    cases p
    case keys | released | draws => simp at hp
    case memory => exact fun _ => rfl
    all_goals rfl

/-! ## What a call other than step and execute leaves -/

/-- From s to t by a call that runs no instruction: an accessor or a refused load, a tick, an input update or a load. -/
inductive DriverMove (s : State) : State → Prop
  | stay : DriverMove s s
  | tick : DriverMove s s.onTick
  | inputs (states : Vector Bool 16) : DriverMove s (s.updateInputs states)
  | load (bytes : List Byte) (hlen : bytes.length ≤ 3584) : DriverMove s (s.storeBytes 0x200 bytes)

/-- Every call but step and execute is defined, on a marked state too, and makes such a move (R247, R262). -/
theorem call_driverMove (op : DriverOp) (s : State) (hstep : op ≠ .step) (hexec : ∀ w, op ≠ .execute w) :
    ∃ t r, call op s = .next (t, r) ∧ DriverMove s t := by
  cases op
  case step => exact absurd rfl hstep
  case execute w => exact absurd rfl (hexec w)
  case loadProgram bytes =>
    rw [call, State.loadProgram_eq]
    by_cases hlen : bytes.length ≤ 3584
    · rw [if_pos hlen]
      exact ⟨_, _, rfl, .load bytes hlen⟩
    · rw [if_neg hlen]
      exact ⟨_, _, rfl, .stay⟩
  case onTick => exact ⟨_, _, rfl, .tick⟩
  case updateInputs states => exact ⟨_, _, rfl, .inputs states⟩
  all_goals exact ⟨_, _, rfl, .stay⟩

theorem DriverMove.fault_eq (h : DriverMove s t) : t.fault = s.fault := by
  cases h with
  | inputs states => rw [State.updateInputs_eq]
  | stay | tick | load => rfl

/-- Only a load writes memory, at most to 0xFFF (R282). -/
theorem DriverMove.keeps_wf (h : DriverMove s t) (hwf : Memory.wf s.mem) : Memory.wf t.mem := by
  cases h with
  | stay | tick => exact hwf
  | inputs states => rwa [State.updateInputs_eq]
  | load bytes hlen => exact Memory.wf_writeBytes _ _ _ hwf (Nat.add_le_add_left hlen 0x200)

/-- Settles O58: no move of the driver touches the mark. -/
theorem driverCallsKeepTheFaultMark : Obligations.DriverCallsKeepTheFaultMark := by
  intro op s hstep hexec
  obtain ⟨t, r, hcall, hmove⟩ := call_driverMove op s hstep hexec
  exact ⟨t, r, hcall, hmove.fault_eq⟩

/-! ## Memory stays canonical -/

theorem exec_keeps_wf {i : Instr} (h : exec i s = .next t) (hwf : Memory.wf s.mem) : Memory.wf t.mem := by
  obtain ⟨-, ⟨f, -, rfl⟩ | ⟨hc, rfl⟩⟩ := exec_next.1 h
  · exact hwf
  · exact effectOf_keeps_wf hc hwf

theorem execute_keeps_wf {w : Opcode} (h : execute w s = .next t) (hwf : Memory.wf s.mem) : Memory.wf t.mem := by
  obtain ⟨-, ⟨-, rfl⟩ | ⟨i, -, he⟩⟩ := execute_next.1 h
  · exact hwf
  · exact exec_keeps_wf he hwf

theorem step_keeps_wf (h : step s = .next t) (hwf : Memory.wf s.mem) : Memory.wf t.mem := by
  obtain ⟨-, ⟨-, rfl⟩ | ⟨-, -, rfl⟩ | ⟨-, i, u, -, he, rfl⟩⟩ := step_next.1 h
  · exact hwf
  · exact hwf
  · rw [State.advance_mem]
    exact exec_keeps_wf he hwf

/-- A reply leaves the outcome's next state. -/
theorem withReply_next {o : Out} {r : Reply} (h : withReply o = .next (t, r)) : o = .next t := by
  cases o with
  | next u => cases h; rfl
  | fault f => cases h
  | refused q => cases h

theorem call_keeps_wf {op : DriverOp} {r : Reply} (h : call op s = .next (t, r)) (hwf : Memory.wf s.mem) :
    Memory.wf t.mem := by
  by_cases hstep : op = .step
  · subst hstep
    exact step_keeps_wf (withReply_next h) hwf
  · by_cases hexec : ∃ w, op = .execute w
    · obtain ⟨w, rfl⟩ := hexec
      exact execute_keeps_wf (withReply_next h) hwf
    · obtain ⟨u, q, hcall, hmove⟩ := call_driverMove op s hstep fun w hw => hexec ⟨w, hw⟩
      cases hcall.symm.trans h
      exact hmove.keeps_wf hwf

/-- Settles O51, by induction on the list of calls. -/
theorem driverRunsKeepMemoryCanonical : Obligations.DriverRunsKeepMemoryCanonical := by
  intro ops
  induction ops with
  | nil =>
    intro s t hwf h
    cases h
    exact hwf
  | cons op ops ih =>
    intro s t hwf h
    rw [runCalls] at h
    cases hcall : call op s with
    | next p =>
      rw [hcall] at h
      exact ih p.1 t (call_keeps_wf hcall hwf) h
    | fault f => rw [hcall] at h; cases h
    | refused q => rw [hcall] at h; cases h

end Sys2Proof.Machine
end

section
/-! PROOF. Reset, program loading and the jump to itself (R280 to R282, R290): the values after reset, what a load leaves
in memory, and the first word that runs after it. -/

namespace Sys2Proof.Machine

/-! ## Program loading -/

/-- A store changes memory and nothing else (R57). -/
theorem State.frame_storeBytes (s : State) (a : Nat) (bs : List Byte) : Frame s (s.storeBytes a bs) [] [.memory] := by
  refine ⟨fun _ _ => rfl, fun p hp => ?_⟩
  cases p
  case memory => exact absurd List.mem_cons_self hp
  all_goals rfl

/-- Settles O55: an image that fits is one store of its bytes from 0x200 on; of a longer one the load answers `none`. -/
theorem loadProgramCopiesTheImage : Obligations.LoadProgramCopiesTheImage := by
  refine fun s bytes => ⟨fun hfits => ⟨s.storeBytes 0x200 bytes, ?_, fun k hk => ?_,
    fun a => s.byte_storeBytes_outside 0x200 a bytes, s.frame_storeBytes 0x200 bytes⟩, fun hlong => ?_⟩
  · rw [call, State.loadProgram_eq, if_pos hfits]
  · exact s.byte_storeBytes_at 0x200 k (List.getElem?_eq_getElem hk)
  · rw [call, State.loadProgram_eq, if_neg hlong.not_ge]

/-! ## The jump to itself -/

/-- A transfer and the advance after it leave pc at the target, and else only clear the release latch (R81, R149). -/
theorem State.advance_transfer {s : State} (hs : s.running) (target : Nat) :
    (s.transfer target).clearReleased.advance = { s with pc := BitVec.ofNat 16 target, released := none } := by
  calc (s.transfer target).clearReleased.advance
      = { s with pc := (s.transfer target).pc + 2, released := none } := by
        rw [State.advance_eq]
        exact if_pos hs
    _ = { s with pc := BitVec.ofNat 16 target, released := none } := by rw [s.transfer_pc_add]

/-- Settles O29: the fetched jump and the advance lead to nnn, where pc is already. -/
theorem selfJumpLeavesTheState : Obligations.SelfJumpLeavesTheState := by
  intro s nnn hs hpc hin hd
  have htarget : BitVec.ofNat 16 nnn.toNat = s.pc := by rw [← hpc, BitVec.ofNat_toNat, BitVec.setWidth_eq]
  have hnext : { s with released := none } = (s.transfer nnn.toNat).clearReleased.advance := by
    rw [State.advance_transfer hs, htarget]
  exact step_next.2 ⟨hs, .inr (.inr ⟨hpc.trans_le hin, .jp nnn, _, hd, exec_jp s nnn hs, hnext⟩)⟩

/-! ## The state after reset -/

/-- Settles O50: memory lists no byte, pc is 0x200 and no entry is in use. -/
theorem resetMeetsTheInvariant : Obligations.ResetMeetsTheInvariant where
  memWf := State.wf_reset
  pcBound := by decide
  liveEntries := fun j hj => absurd hj j.val.not_lt_zero

/-- Above the font's slots memory is zero at reset (R55). -/
theorem resetByte_above_font {a : Nat} (h : 0x60 ≤ a) : resetByte a = 0 := if_neg h.not_gt

/-- Settles O59: the fields of reset are constants, its memory reads as the reset contents, the 96 bytes of the font's
slots evaluated one by one. -/
theorem resetStateIsAsListed : Obligations.ResetStateIsAsListed :=
  ⟨fun x => Vector.getElem_replicate x.isLt, rfl, rfl, rfl, fun j => Vector.getElem_replicate j.isLt, rfl, rfl,
    fun k => Vector.getElem_replicate k.isLt, rfl, fun px py _ _ => Screen.lit_blank px py, rfl, by decide,
    fun _ ha _ => resetByte_above_font ha⟩

/-! ## The first step after a load -/

/-- After reset and a store from 0x200 on, the word fetched is that of the first two bytes stored (R58, R281). -/
theorem fetchWord_reset_storeBytes (hi lo : Byte) (rest : List Byte) :
    (State.reset.storeBytes 0x200 (hi :: lo :: rest)).fetchWord = wordOf hi lo :=
  congrArg₂ wordOf (State.reset.byte_storeBytes_at 0x200 0 rfl) (State.reset.byte_storeBytes_at 0x200 1 rfl)

/-- Settles O56: the load is a store from 0x200 on, which is pc after reset, so the step runs what the image's first two
bytes decode to, and then advances. -/
theorem firstStepRunsTheImagesFirstWord : Obligations.FirstStepRunsTheImagesFirstWord := by
  intro hi lo rest i hlen hd
  have hfits : (hi :: lo :: rest).length ≤ 3584 := Nat.add_le_add_right hlen 2
  rw [← toNat_wordOf, BitVec.ofNat_toNat, BitVec.setWidth_eq, ← fetchWord_reset_storeBytes hi lo rest] at hd
  refine ⟨State.reset.storeBytes 0x200 (hi :: lo :: rest), by rw [State.loadProgram_eq, if_pos hfits], fun t he => ?_⟩
  have hpc : State.reset.pc.toNat ≤ 0xFFE := by decide
  rw [← t.advance_eq]
  exact step_next.2 ⟨rfl, .inr (.inr ⟨hpc, i, t, hd, he, rfl⟩)⟩

end Sys2Proof.Machine
end
